-- ==== Sys2Proof/Word.lean ====
section
/-! DEFINITION. The widths of the RFC 4648 codec block (00_scope.md R8, R10; 30_encoding.md R100, R120). -/

namespace Sys2Proof

/-- A byte or symbol: 8 bits (30_encoding.md R100). -/
abbrev Byte := BitVec 8

/-- A Base64 digit value: 6 bits (R100). -/
abbrev Digit64 := BitVec 6

/-- A Base32 digit value: 5 bits (R100). -/
abbrev Digit32 := BitVec 5

/-- A Base16 digit value: 4 bits (R100). -/
abbrev Nibble := BitVec 4

/-- An operation descriptor `OPD[4:0]` (R120). -/
abbrev Opd := BitVec 5

/-- The value of `CFG`: bit 1 `FLAG`, bit 0 `VARIANT` (10_state.md R34). -/
abbrev Cfg := BitVec 2

end Sys2Proof
end

