-- ==== Sys2Proof/Config.lean ====
section
/-! DEFINITION. The parameters the spec leaves to the model (00_scope.md R9; 92_eei_decisions.md D6, D14).
They are plain data that State carries and no step writes, so a statement about every state holds for
every value of them (assumption log entry 4). And the free values: what the host-visible registers of a unit show before the unit's
first `RESET`, when they "have no defined value" (70_reset_and_hazards.md R280); no body, so no proof can see one (DESIGN CHOICE, safe: log entry 10). -/

namespace Sys2Proof

/-- `B32_ODD_COUNT` (R9, D14, U14): what B32D does with a group of 3 or 6 data symbols. -/
inductive OddCount where
  /-- The decided value: the decode fails. -/
  | fail
  /-- The recorded alternative: the last symbol of the group is ignored. -/
  | floor
  deriving DecidableEq, Repr

/-- The two parameters that some rule reads. `BUS_MAP` and `DONE_IRQ` are read by no rule. -/
structure Params where
  /-- `MAX_LEN`, the most symbols one transaction may have; `none` is "unbounded" (R9). -/
  maxLen : Option Nat
  /-- `B32_ODD_COUNT` (R9). -/
  b32OddCount : OddCount
  deriving DecidableEq, Repr

/-- A transaction of `n` symbols is no longer than `MAX_LEN` (R9). -/
def Params.admits (p : Params) (n : Nat) : Bool :=
  match p.maxLen with
  | none => true
  | some m => decide (n ≤ m)

/-- What the `n`-th undefined read gives where it reads `STATUS`. -/
opaque Config.undefinedStatus : Nat → BitVec 3

/-- The same for `CFG`. -/
opaque Config.undefinedCfg : Nat → Cfg

/-- The same for `OUT_LEN`. -/
opaque Config.undefinedOutLen : Nat → Nat

/-- The same for `OUT`. -/
opaque Config.undefinedOut : Nat → List Byte

/-- The same for one byte of `OUT`. -/
opaque Config.undefinedOutByte : Nat → Byte

end Sys2Proof
end

