-- ==== Sys2Proof/Syntax.lean ====
section
/-! DEFINITION. The operations (30_encoding.md R121: one constructor per row of spec/opcode_table.json), the units they
name and the pseudo-operations of R128 and 44_validation_and_laws.md R220. -/

namespace Sys2Proof

/-- The six units (00_scope.md R2). -/
inductive UnitId where
  | b64e | b64d | b32e | b32d | b16e | b16d
  deriving DecidableEq, Repr

/-- An operation with its operand, the whole message (30_encoding.md R121, R127 "MNEMONIC input"). -/
inductive Instr where
  /-- `B64ENC.STD.NOPAD bytes` (41_base64.md R143). -/
  | b64encStdNopad (bytes : List Byte)
  /-- `B64ENC.URL.NOPAD bytes` (R145). -/
  | b64encUrlNopad (bytes : List Byte)
  /-- `B64ENC.STD.PAD bytes` (R144). -/
  | b64encStdPad (bytes : List Byte)
  /-- `B64ENC.URL.PAD bytes` (R146). -/
  | b64encUrlPad (bytes : List Byte)
  /-- `B64DEC.STD text` (R155). -/
  | b64decStd (text : List Byte)
  /-- `B64DEC.URL text` (R156). -/
  | b64decUrl (text : List Byte)
  /-- `B32ENC.STD.NOPAD bytes` (42_base32.md R173). -/
  | b32encStdNopad (bytes : List Byte)
  /-- `B32ENC.HEX.NOPAD bytes` (R175). -/
  | b32encHexNopad (bytes : List Byte)
  /-- `B32ENC.STD.PAD bytes` (R174). -/
  | b32encStdPad (bytes : List Byte)
  /-- `B32ENC.HEX.PAD bytes` (R176). -/
  | b32encHexPad (bytes : List Byte)
  /-- `B32DEC.STD text` (R185). -/
  | b32decStd (text : List Byte)
  /-- `B32DEC.HEX text` (R186). -/
  | b32decHex (text : List Byte)
  /-- `B16ENC.LOWER bytes` (43_base16.md R202). -/
  | b16encLower (bytes : List Byte)
  /-- `B16ENC.UPPER bytes` (R203). -/
  | b16encUpper (bytes : List Byte)
  /-- `B16DEC text` (R207). -/
  | b16dec (text : List Byte)
  deriving DecidableEq, Repr

/-- The pseudo-operations: D0's defaults (30_encoding.md R128) and `isValid` (44 R220). -/
inductive Pseudo where
  | b64encStd | b64encUrl | b32encStd | b32encHex | b16enc
  | b64validStd | b64validUrl | b32validStd | b32validHex | b16valid
  deriving DecidableEq, Repr

end Sys2Proof
end

