-- ==== Sys2Proof/Decode.lean ====
section
/-! DEFINITION. The operation descriptor `OPD = UNIT, FLAG, VARIANT` (30_encoding.md R120, R121, R124): the decoder, total
on the 32 descriptors and rejecting the 17 reserved ones by name, and the encoder, both written from R121. -/

namespace Sys2Proof

/-- Why a descriptor is reserved (30_encoding.md R124). -/
inductive Reserved where
  /-- `UNIT` is 6 or 7. -/
  | unitNumber
  /-- `UNIT` is 1 or 3 and `FLAG` is 1. -/
  | decoderFlag
  /-- `UNIT` is 4 and `VARIANT` is 1. -/
  | b16eVariant
  /-- `UNIT` is 5 and `FLAG` or `VARIANT` is 1. -/
  | b16dConfig
  deriving DecidableEq, Repr

/-- The `UNIT` field of a unit (R120). -/
def UnitId.code : UnitId → BitVec 3
  | .b64e => 0
  | .b64d => 1
  | .b32e => 2
  | .b32d => 3
  | .b16e => 4
  | .b16d => 5

/-- The operation a descriptor names, with its message (R121), or the name of the reservation (R124). -/
def decode (opd : Opd) (message : List Byte) : Except Reserved Instr :=
  match opd.toNat with
  | 0b00000 => .ok (.b64encStdNopad message)
  | 0b00001 => .ok (.b64encUrlNopad message)
  | 0b00010 => .ok (.b64encStdPad message)
  | 0b00011 => .ok (.b64encUrlPad message)
  | 0b00100 => .ok (.b64decStd message)
  | 0b00101 => .ok (.b64decUrl message)
  | 0b00110 => .error .decoderFlag
  | 0b00111 => .error .decoderFlag
  | 0b01000 => .ok (.b32encStdNopad message)
  | 0b01001 => .ok (.b32encHexNopad message)
  | 0b01010 => .ok (.b32encStdPad message)
  | 0b01011 => .ok (.b32encHexPad message)
  | 0b01100 => .ok (.b32decStd message)
  | 0b01101 => .ok (.b32decHex message)
  | 0b01110 => .error .decoderFlag
  | 0b01111 => .error .decoderFlag
  | 0b10000 => .ok (.b16encLower message)
  | 0b10001 => .error .b16eVariant
  | 0b10010 => .ok (.b16encUpper message)
  | 0b10011 => .error .b16eVariant
  | 0b10100 => .ok (.b16dec message)
  | 0b10101 => .error .b16dConfig
  | 0b10110 => .error .b16dConfig
  | 0b10111 => .error .b16dConfig
  | _ => .error .unitNumber

/-- The descriptor and the message of an operation (R121). -/
def encode : Instr → Opd × List Byte
  | .b64encStdNopad m => (0b00000, m)
  | .b64encUrlNopad m => (0b00001, m)
  | .b64encStdPad m => (0b00010, m)
  | .b64encUrlPad m => (0b00011, m)
  | .b64decStd m => (0b00100, m)
  | .b64decUrl m => (0b00101, m)
  | .b32encStdNopad m => (0b01000, m)
  | .b32encHexNopad m => (0b01001, m)
  | .b32encStdPad m => (0b01010, m)
  | .b32encHexPad m => (0b01011, m)
  | .b32decStd m => (0b01100, m)
  | .b32decHex m => (0b01101, m)
  | .b16encLower m => (0b10000, m)
  | .b16encUpper m => (0b10010, m)
  | .b16dec m => (0b10100, m)

/-- The unit an operation runs on (R121, column "unit"). -/
def Instr.unit : Instr → UnitId
  | .b64encStdNopad _ => .b64e
  | .b64encUrlNopad _ => .b64e
  | .b64encStdPad _ => .b64e
  | .b64encUrlPad _ => .b64e
  | .b64decStd _ => .b64d
  | .b64decUrl _ => .b64d
  | .b32encStdNopad _ => .b32e
  | .b32encHexNopad _ => .b32e
  | .b32encStdPad _ => .b32e
  | .b32encHexPad _ => .b32e
  | .b32decStd _ => .b32d
  | .b32decHex _ => .b32d
  | .b16encLower _ => .b16e
  | .b16encUpper _ => .b16e
  | .b16dec _ => .b16d

/-- The `cfg` of an operation, `FLAG` in bit 1 and `VARIANT` in bit 0 (R120, R121; 10_state.md R34). -/
def Instr.cfg : Instr → Cfg
  | .b64encStdNopad _ => 0b00
  | .b64encUrlNopad _ => 0b01
  | .b64encStdPad _ => 0b10
  | .b64encUrlPad _ => 0b11
  | .b64decStd _ => 0b00
  | .b64decUrl _ => 0b01
  | .b32encStdNopad _ => 0b00
  | .b32encHexNopad _ => 0b01
  | .b32encStdPad _ => 0b10
  | .b32encHexPad _ => 0b11
  | .b32decStd _ => 0b00
  | .b32decHex _ => 0b01
  | .b16encLower _ => 0b00
  | .b16encUpper _ => 0b10
  | .b16dec _ => 0b00

/-- The operand of an operation (R121, R127). -/
def Instr.message (i : Instr) : List Byte := (encode i).2

/-- The five-bit descriptor that a table word stands for: bits 4:0, the bits spec/opcode_table.json's mask keeps
(assumption log entry 13). -/
def descriptorOfWord (w : Nat) : Opd := BitVec.ofNat 5 w

/-- What the decoder reads from a word numbered as spec/opcode_table.json numbers it. A row has no operand bits, so the
message is empty (log entry 13). -/
def decodeTableWord (_nbits w : Nat) : Option Instr :=
  match decode (descriptorOfWord w) [] with
  | .ok i => some i
  | .error _ => none

end Sys2Proof
end

