-- ==== Sys2Proof/Machine/State.lean ====
section
/-! DEFINITION. The state of the block (10_state.md): the registers of the six units, the parameters, and the host's
pending actions. All of it is plain data. -/

namespace Sys2Proof.Machine

open Sys2Proof

/-- The protocol state `ST` (10_state.md R23); the value 3 never occurs (R35). -/
inductive Protocol where
  | idle | run | done
  deriving DecidableEq, Repr

/-- The registers every unit has: protocol, configuration, staging buffer and result (10_state.md R34 to R36, R42). -/
structure Port where
  /-- A `RESET` has been presented since power-up (70_reset_and_hazards.md R280; 92_eei_decisions.md D17). -/
  wasReset : Bool
  /-- `ST` (R23). -/
  st : Protocol
  /-- `OK` (R33, R35). -/
  ok : Bool
  /-- `CFG`: bit 1 `FLAG`, bit 0 `VARIANT` (R34). -/
  cfg : Cfg
  /-- `OBUF`, the hidden staging buffer (R42). -/
  obuf : List Byte
  /-- `OUT`, the result (R36). -/
  out : List Byte
  /-- The host's index of the next symbol of the transaction (R30 (a)); the unit itself does not count symbols. -/
  sent : Nat
  deriving DecidableEq, Repr

/-- B64E (10_state.md R26). -/
structure B64E where
  port : Port
  /-- `B[0]` to `B[2]`. -/
  b : Vector Byte 3
  /-- `CNT`. -/
  cnt : BitVec 2
  deriving DecidableEq, Repr

/-- B64D (10_state.md R27). -/
structure B64D where
  port : Port
  /-- `V[0]` to `V[3]`. -/
  v : Vector Digit64 4
  /-- `CNT`. -/
  cnt : BitVec 2
  /-- `PADCNT`. -/
  padcnt : BitVec 1
  /-- `CLOSED`. -/
  closed : Bool
  /-- `FAIL`. -/
  fail : Bool
  deriving DecidableEq, Repr

/-- B32E (10_state.md R28). -/
structure B32E where
  port : Port
  /-- `B[0]` to `B[4]`. -/
  b : Vector Byte 5
  /-- `CNT`. -/
  cnt : BitVec 3
  deriving DecidableEq, Repr

/-- B32D (10_state.md R29). -/
structure B32D where
  port : Port
  /-- `C[0]` to `C[7]`. -/
  c : Vector Digit32 8
  /-- `CNT`. -/
  cnt : BitVec 3
  /-- `PADCNT`. -/
  padcnt : BitVec 3
  /-- `CLOSED`. -/
  closed : Bool
  /-- `FAIL`. -/
  fail : Bool
  deriving DecidableEq, Repr

/-- B16E (10_state.md R31): nothing is held between events but `OBUF`. -/
structure B16E where
  port : Port
  deriving DecidableEq, Repr

/-- B16D (10_state.md R32). -/
structure B16D where
  port : Port
  /-- `POS`; 2 means "two or more". -/
  pos : BitVec 2
  /-- `FIRST0`. -/
  first0 : Bool
  /-- `HI`. -/
  hi : Nibble
  /-- `HAVE_HI`. -/
  haveHi : Bool
  /-- `FAIL`. -/
  fail : Bool
  deriving DecidableEq, Repr

/-- An event of a unit (10_state.md R22). -/
inductive Event where
  | reset
  | start (cfg : Cfg)
  | symbol (x : Byte)
  /-- `END`. -/
  | finish
  deriving DecidableEq, Repr

/-- The working registers, which the host cannot read (10_state.md R25, R33; 93_implementation_defined.md U13). -/
inductive WorkReg where
  | b | v | c | cnt | padcnt | closed | fail | obuf | pos | first0 | hi | haveHi
  deriving DecidableEq, Repr

/-- What a host read names. -/
inductive ReadTarget where
  /-- `STATUS` (10_state.md R35). -/
  | status
  /-- `CFG` (R34: "The host can read `CFG` back"). -/
  | cfg
  /-- `OUT_LEN` (R36). -/
  | outLen
  /-- `OUT`, the whole sequence (R36). -/
  | out
  /-- The byte of `OUT` at an index (R40: `OUT` is a space of `OUT_LEN` bytes). -/
  | outByte (a : Nat)
  /-- A working register. -/
  | working (r : WorkReg)
  deriving DecidableEq, Repr

/-- What a host read gives. -/
inductive ReadValue where
  /-- `STATUS`: bit 2 `OK`, bits 1:0 `ST`. -/
  | status (v : BitVec 3)
  | cfg (v : Cfg)
  | outLen (n : Nat)
  | out (bytes : List Byte)
  | outByte (v : Byte)
  deriving DecidableEq, Repr

/-- One action of the host, the seventh agent (10_state.md R20, R22). -/
inductive HostAction where
  /-- Present `RESET` to a unit. -/
  | reset (u : UnitId)
  /-- Present `START(cfg)` to the unit the descriptor names (30_encoding.md R120, R124). -/
  | start (opd : Opd)
  /-- Present `SYMBOL(x)` to a unit. -/
  | symbol (u : UnitId) (x : Byte)
  /-- Present `END` to a unit. -/
  | finish (u : UnitId)
  /-- One line of a program, which is one transaction (R127). -/
  | line (opd : Opd) (message : List Byte)
  /-- Read a register of a unit. -/
  | read (u : UnitId) (r : ReadTarget)
  deriving DecidableEq, Repr

/-- The state of the block and its host. -/
structure State where
  b64e : B64E
  b64d : B64D
  b32e : B32E
  b32d : B32D
  b16e : B16E
  b16d : B16D
  /-- `MAX_LEN` and `B32_ODD_COUNT`; no step writes them (assumption log entry 4). -/
  params : Params
  /-- What the host will do next, first action first (log entry 1). -/
  script : List HostAction
  /-- What the host's last read gave; absent before the first read (log entry 7). -/
  lastRead : Option ReadValue
  /-- How many undefined reads there were: the model's own counter, which gives each of them a fresh free value (log entry 10). -/
  undefinedReads : Nat
  deriving DecidableEq, Repr

/-- The registers of one unit as one value: how a statement speaks of "the state of unit `u`". -/
inductive UnitFile where
  | b64e (r : B64E)
  | b64d (r : B64D)
  | b32e (r : B32E)
  | b32d (r : B32D)
  | b16e (r : B16E)
  | b16d (r : B16D)
  deriving DecidableEq, Repr

/-- Why the run stops with a fault. No rule of the spec stops the block: a decode failure is a next state (60 R255). -/
inductive Fault where
  /-- Raised by a host read of `OUT[a]` with `a` not below `OUT_LEN`: the index does not exist (10_state.md R40). Safe: the
  run stops where the spec says nothing (log entry 8). -/
  | noSuchOutByte (u : UnitId) (a : Nat)
  deriving DecidableEq, Repr

/-- Why the model gives a host action no meaning: the spec gives it none (60 R259). -/
inductive Refusal where
  /-- Raised by an arm of `exec` for an operation that has no meaning yet. Safe. No arm raises it now. -/
  | notModelled (mnemonic : String)
  /-- Raised by a START with a reserved descriptor (30_encoding.md R124). Safe: the spec gives it no meaning. -/
  | reservedDescriptor (why : Reserved)
  /-- Raised by any event but RESET before the unit's first RESET: the spec refuses it (93 U10; 92 D17: "A model should treat
  'no `RESET` yet' as refusing every other event"; 70 R280). Safe. A host read is no event and goes on (log entry 10). -/
  | neverReset (u : UnitId)
  /-- Raised by an event in a protocol state that refuses it (10_state.md R23, U9). Safe. -/
  | outOfProtocol (u : UnitId) (e : Event) (st : Protocol)
  /-- Raised by a SYMBOL that would make the transaction longer than `MAX_LEN` (10_state.md R23, 00_scope.md R9, U11). Safe. -/
  | tooLong (u : UnitId)
  /-- Raised by a host read of a working register (10_state.md R25, U13). Safe. -/
  | notReadable (u : UnitId) (r : WorkReg)
  deriving DecidableEq, Repr

/-- A unit's common registers after `RESET` (10_state.md R50). -/
def Port.reset : Port :=
  { wasReset := true, st := .idle, ok := false, cfg := 0, obuf := [], out := [], sent := 0 }

/-- The block right after a `RESET` of each of its six units (10_state.md R50), with `MAX_LEN` unbounded, `B32_ODD_COUNT`
the decided `fail`, and a host that has nothing to do (log entries 1, 4, 5, 6, 7, 10). -/
def State.reset : State where
  b64e := { port := Port.reset, b := Vector.replicate 3 0, cnt := 0 }
  b64d := { port := Port.reset, v := Vector.replicate 4 0, cnt := 0, padcnt := 0, closed := false, fail := false }
  b32e := { port := Port.reset, b := Vector.replicate 5 0, cnt := 0 }
  b32d := { port := Port.reset, c := Vector.replicate 8 0, cnt := 0, padcnt := 0, closed := false, fail := false }
  b16e := { port := Port.reset }
  b16d := { port := Port.reset, pos := 0, first0 := false, hi := 0, haveHi := false, fail := false }
  params := { maxLen := none, b32OddCount := .fail }
  script := []
  lastRead := none
  undefinedReads := 0

/-- The block at power-up: whatever the registers happen to hold (`s` is arbitrary), and no unit has been reset
(70_reset_and_hazards.md R280: "a unit's registers have no defined value until its first `RESET`"). -/
def State.powerUp (s : State) : State :=
  { s with
    b64e.port.wasReset := false
    b64d.port.wasReset := false
    b32e.port.wasReset := false
    b32d.port.wasReset := false
    b16e.port.wasReset := false
    b16d.port.wasReset := false }

end Sys2Proof.Machine
end

