-- ==== Sys2Proof/Machine/Flags.lean ====
section
/-! DEFINITION. The flags and the STATUS view (10_state.md R33, R35) and the protocol table (R23). -/

namespace Sys2Proof.Machine

open Sys2Proof

/-- D0's classes of failure (60_exceptions.md R251): a label for the reader, recorded in no state (00_scope.md R15). -/
inductive Cause where
  | symbol | structural | padding
  deriving DecidableEq, Repr

/-- The two bits of `ST` in STATUS (10_state.md R35). -/
def Protocol.bits : Protocol → BitVec 2
  | .idle => 0
  | .run => 1
  | .done => 2

/-- `STATUS`: bit 2 `OK`, bits 1:0 `ST` (10_state.md R35). -/
def Port.status (p : Port) : BitVec 3 := BitVec.ofBool p.ok ++ p.st.bits

/-- `OUT_LEN = len(OUT)` (10_state.md R36). -/
def Port.outLen (p : Port) : Nat := p.out.length

/-- The protocol table: which event is legal in which protocol state (10_state.md R23). -/
def legal (st : Protocol) (e : Event) : Bool :=
  match st, e with
  | _, .reset => true
  | .idle, .start _ => true
  | .idle, .symbol _ => false
  | .idle, .finish => false
  | .run, .start _ => false
  | .run, .symbol _ => true
  | .run, .finish => true
  | .done, .start _ => true
  | .done, .symbol _ => false
  | .done, .finish => false

end Sys2Proof.Machine
end

