-- ==== Sys2Proof/Machine/Operands.lean ====
section
/-! DEFINITION. Operand assembly: the bit-group packer and unpacker (30_encoding.md R101 to R111), the input comparators
(20_memory.md R74) and the fields of `CFG` (10_state.md R34). Shifts act on unbounded naturals, as 00_scope.md R11 says. -/

namespace Sys2Proof.Machine

open Sys2Proof

/-- `CFG.VARIANT`, bit 0 (10_state.md R34). -/
def variantOf (c : Cfg) : BitVec 1 := c.extractLsb' 0 1

/-- `CFG.FLAG`, bit 1 (10_state.md R34). -/
def flagOf (c : Cfg) : BitVec 1 := c.extractLsb' 1 1

/-- The padding character `=` (20_memory.md R74). -/
def padChar : Byte := 0x3D

/-- `is_pad` (R74). -/
def isPad (x : Byte) : Bool := x == 0x3D

/-- `is_ws`: space, tab, LF, CR and nothing else (R74). -/
def isWs (x : Byte) : Bool := x == 0x20 || x == 0x09 || x == 0x0A || x == 0x0D

/-- The four digit values of a Base64 group (30_encoding.md R104). -/
def pack64 (b1 b2 b3 : Byte) : List Digit64 :=
  let b1 := b1.toNat
  let b2 := b2.toNat
  let b3 := b3.toNat
  [ BitVec.ofNat 6 (b1 >>> 2),
    BitVec.ofNat 6 (((b1 <<< 4) ||| (b2 >>> 4)) &&& 0x3F),
    BitVec.ofNat 6 (((b2 <<< 2) ||| (b3 >>> 6)) &&& 0x3F),
    BitVec.ofNat 6 (b3 &&& 0x3F) ]

/-- The `k - 1` bytes of `k` Base64 digit values, `k` = 2, 3 or 4 (30_encoding.md R105; 90_conflicts.md C1). -/
def unpack64 (v1 v2 v3 v4 : Digit64) (k : Nat) : List Byte :=
  let v1 := v1.toNat
  let v2 := v2.toNat
  let v3 := v3.toNat
  let v4 := v4.toNat
  [BitVec.ofNat 8 ((v1 <<< 2) ||| (v2 >>> 4))]
  ++ (if 3 ≤ k then [BitVec.ofNat 8 (((v2 &&& 0x0F) <<< 4) ||| (v3 >>> 2))] else [])
  ++ (if k = 4 then [BitVec.ofNat 8 (((v3 &&& 0x03) <<< 6) ||| v4)] else [])

/-- The eight digit values of a Base32 group (30_encoding.md R106). -/
def pack32 (b1 b2 b3 b4 b5 : Byte) : List Digit32 :=
  let b1 := b1.toNat
  let b2 := b2.toNat
  let b3 := b3.toNat
  let b4 := b4.toNat
  let b5 := b5.toNat
  [ BitVec.ofNat 5 (b1 >>> 3),
    BitVec.ofNat 5 (((b1 <<< 2) ||| (b2 >>> 6)) &&& 0x1F),
    BitVec.ofNat 5 ((b2 >>> 1) &&& 0x1F),
    BitVec.ofNat 5 (((b2 <<< 4) ||| (b3 >>> 4)) &&& 0x1F),
    BitVec.ofNat 5 (((b3 <<< 1) ||| (b4 >>> 7)) &&& 0x1F),
    BitVec.ofNat 5 ((b4 >>> 2) &&& 0x1F),
    BitVec.ofNat 5 (((b4 <<< 3) ||| (b5 >>> 5)) &&& 0x1F),
    BitVec.ofNat 5 (b5 &&& 0x1F) ]

/-- The bytes of `k` Base32 digit values, `k` in 2, 4, 5, 7, 8 (30_encoding.md R109). -/
def unpack32 (c1 c2 c3 c4 c5 c6 c7 c8 : Digit32) (k : Nat) : List Byte :=
  let c1 := c1.toNat
  let c2 := c2.toNat
  let c3 := c3.toNat
  let c4 := c4.toNat
  let c5 := c5.toNat
  let c6 := c6.toNat
  let c7 := c7.toNat
  let c8 := c8.toNat
  (if 2 ≤ k then [BitVec.ofNat 8 ((c1 <<< 3) ||| (c2 >>> 2))] else [])
  ++ (if 4 ≤ k then [BitVec.ofNat 8 (((c2 &&& 0x03) <<< 6) ||| (c3 <<< 1) ||| (c4 >>> 4))] else [])
  ++ (if 5 ≤ k then [BitVec.ofNat 8 (((c4 &&& 0x0F) <<< 4) ||| (c5 >>> 1))] else [])
  ++ (if 7 ≤ k then [BitVec.ofNat 8 (((c5 &&& 0x01) <<< 7) ||| (c6 <<< 2) ||| (c7 >>> 3))] else [])
  ++ (if k = 8 then [BitVec.ofNat 8 (((c7 &&& 0x07) <<< 5) ||| c8)] else [])

/-- How many of `k` data symbols of an ended Base32 group carry its bytes, or none where the group fails: 2, 4, 5, 7 and 8
stand for themselves, 1 fails, 3 and 6 follow `B32_ODD_COUNT` (42_base32.md R181, R183; 92_eei_decisions.md D14). -/
def usable32 (odd : OddCount) (k : Nat) : Option Nat :=
  match k with
  | 2 => some 2
  | 3 => match odd with
    | .fail => none
    | .floor => some 2
  | 4 => some 4
  | 5 => some 5
  | 6 => match odd with
    | .fail => none
    | .floor => some 5
  | 7 => some 7
  | 8 => some 8
  | _ => none

/-- `K(r)`: the data characters of a short Base32 group of `r` bytes (42_base32.md R170; 30_encoding.md R110). -/
def dataChars32 (r : Nat) : Nat :=
  match r with
  | 1 => 2
  | 2 => 4
  | 3 => 5
  | 4 => 7
  | 5 => 8
  | _ => 0

/-- The two nibbles of a byte, high first (30_encoding.md R103). -/
def nibbles (b : Byte) : List Nibble :=
  [BitVec.ofNat 4 (b.toNat >>> 4), BitVec.ofNat 4 (b.toNat &&& 0x0F)]

/-- `(HI << 4) | d` (43_base16.md R205). -/
def joinNibbles (hi lo : Nibble) : Byte := BitVec.ofNat 8 ((hi.toNat <<< 4) ||| lo.toNat)

end Sys2Proof.Machine
end

