-- ==== Sys2Proof/Machine/Rom.lean ====
section
/-! DEFINITION. The six alphabet ROMs (20_memory.md R60 to R72): constants, in the closed forms of the rules. -/

namespace Sys2Proof.Machine

open Sys2Proof

/-- The sentinel of a decode table: "not a character of the alphabet" (20_memory.md R73). -/
def sentinel : Byte := 255

/-- `E64`, 128 entries at `SEL, value` (R61, R62, R72). -/
def romE64 (a : BitVec 7) : Byte :=
  let i := a.toNat % 64
  if i < 26 then BitVec.ofNat 8 (0x41 + i)
  else if i < 52 then BitVec.ofNat 8 (0x61 + (i - 26))
  else if i < 62 then BitVec.ofNat 8 (0x30 + (i - 52))
  else if a.toNat < 64 then (if i = 62 then 0x2B else 0x2F)
  else (if i = 62 then 0x2D else 0x5F)

/-- `D64`, 512 entries at `VARIANT, x` (R63, R64, R72). -/
def romD64 (a : BitVec 9) : Byte :=
  let x := a.toNat % 256
  if 0x30 ≤ x ∧ x ≤ 0x39 then BitVec.ofNat 8 (x - 0x30 + 52)
  else if 0x41 ≤ x ∧ x ≤ 0x5A then BitVec.ofNat 8 (x - 0x41)
  else if 0x61 ≤ x ∧ x ≤ 0x7A then BitVec.ofNat 8 (x - 0x61 + 26)
  else if x = (if a.toNat < 256 then 0x2B else 0x2D) then 62
  else if x = (if a.toNat < 256 then 0x2F else 0x5F) then 63
  else sentinel

/-- `E32`, 64 entries at `SEL, value` (R65, R66, R72). -/
def romE32 (a : BitVec 6) : Byte :=
  let i := a.toNat % 32
  if a.toNat < 32 then
    (if i < 26 then BitVec.ofNat 8 (0x41 + i) else BitVec.ofNat 8 (0x32 + (i - 26)))
  else
    (if i < 10 then BitVec.ofNat 8 (0x30 + i) else BitVec.ofNat 8 (0x41 + (i - 10)))

/-- `D32`, 512 entries at `VARIANT, x` (R67, R68, R72); both cases of a letter hold the same value. -/
def romD32 (a : BitVec 9) : Byte :=
  let x := a.toNat % 256
  if a.toNat < 256 then
    if 0x32 ≤ x ∧ x ≤ 0x37 then BitVec.ofNat 8 (x - 0x32 + 26)
    else if 0x41 ≤ x ∧ x ≤ 0x5A then BitVec.ofNat 8 (x - 0x41)
    else if 0x61 ≤ x ∧ x ≤ 0x7A then BitVec.ofNat 8 (x - 0x61)
    else sentinel
  else
    if 0x30 ≤ x ∧ x ≤ 0x39 then BitVec.ofNat 8 (x - 0x30)
    else if 0x41 ≤ x ∧ x ≤ 0x56 then BitVec.ofNat 8 (x - 0x41 + 10)
    else if 0x61 ≤ x ∧ x ≤ 0x76 then BitVec.ofNat 8 (x - 0x61 + 10)
    else sentinel

/-- `E16`, 32 entries at `SEL, value` (R69, R70, R72). -/
def romE16 (a : BitVec 5) : Byte :=
  let i := a.toNat % 16
  if i < 10 then BitVec.ofNat 8 (0x30 + i)
  else if a.toNat < 16 then BitVec.ofNat 8 (0x61 + (i - 10))
  else BitVec.ofNat 8 (0x41 + (i - 10))

/-- `D16`, 256 entries at the input byte (R71, R72). -/
def romD16 (a : BitVec 8) : Byte :=
  let x := a.toNat
  if 0x30 ≤ x ∧ x ≤ 0x39 then BitVec.ofNat 8 (x - 0x30)
  else if 0x41 ≤ x ∧ x ≤ 0x46 then BitVec.ofNat 8 (x - 0x41 + 10)
  else if 0x61 ≤ x ∧ x ≤ 0x66 then BitVec.ofNat 8 (x - 0x61 + 10)
  else sentinel

/-- `E64[sel][v]`, which is `MemRead(E64:SEL,v; 1)` (R72). -/
def e64 (sel : BitVec 1) (v : Digit64) : Byte := romE64 (sel ++ v)

/-- `D64[variant][x]` (R72). -/
def d64 (variant : BitVec 1) (x : Byte) : Byte := romD64 (variant ++ x)

/-- `E32[sel][c]` (R72). -/
def e32 (sel : BitVec 1) (c : Digit32) : Byte := romE32 (sel ++ c)

/-- `D32[variant][x]` (R72). -/
def d32 (variant : BitVec 1) (x : Byte) : Byte := romD32 (variant ++ x)

/-- `E16[sel][n]` (R72). -/
def e16 (sel : BitVec 1) (n : Nibble) : Byte := romE16 (sel ++ n)

/-- `D16[x]` (R72). -/
def d16 (x : Byte) : Byte := romD16 x

end Sys2Proof.Machine
end

