-- ==== Sys2Proof/Machine/Ops.lean ====
section
/-! DEFINITION. The operations every unit shares: clearing, appending, committing, and the one exception of the block,
the decode failure (00_scope.md R14, R15; 10_state.md R36, R42, R50; 60_exceptions.md R255). -/

namespace Sys2Proof.Machine

open Sys2Proof

/-- `RESET` of the common registers (10_state.md R50, column "after RESET"). -/
def Port.onReset (_ : Port) : Port := Port.reset

/-- `START(cfg)` of the common registers (10_state.md R50, column "after START"; R34). -/
def Port.onStart (cfg : Cfg) (p : Port) : Port :=
  { p with st := .run, ok := false, cfg := cfg, obuf := [], out := [], sent := 0 }

/-- The host's index moves on by one symbol (10_state.md R30). -/
def Port.count (p : Port) : Port := { p with sent := p.sent + 1 }

/-- `append(OBUF, y)` for each byte in order (00_scope.md R14). -/
def Port.append (bytes : List Byte) (p : Port) : Port := { p with obuf := p.obuf ++ bytes }

/-- "succeed with s" at END (41_base64.md R153): the commit of a result. -/
def Port.succeed (bytes : List Byte) (p : Port) : Port := { p with out := bytes, ok := true, st := .done }

/-- The END of an encoder: append the tail to `OBUF`, commit all of `OBUF` (41_base64.md R142). -/
def Port.finishEncoder (tail : List Byte) (p : Port) : Port :=
  (p.append tail).succeed (p.append tail).obuf

/-- `raise DecodeFail(cause)`: what it does to `FAIL` (00_scope.md R15). The exception's other half is `Port.failAtEnd`. -/
def raiseDecodeFail (_cause : Cause) (_fail : Bool) : Bool := true

/-- The END of a failed decode: `OK` is 0, `OUT` is empty, what `OBUF` holds is not committed (60_exceptions.md R255;
41_base64.md R153). Nothing is saved and nothing is returned from (R257). -/
def Port.failAtEnd (p : Port) : Port := { p with out := [], ok := false, st := .done }

/-- The registers of one unit. -/
def State.file (s : State) : UnitId → UnitFile
  | .b64e => .b64e s.b64e
  | .b64d => .b64d s.b64d
  | .b32e => .b32e s.b32e
  | .b32d => .b32d s.b32d
  | .b16e => .b16e s.b16e
  | .b16d => .b16d s.b16d

/-- The common registers of one unit. -/
def State.port (s : State) : UnitId → Port
  | .b64e => s.b64e.port
  | .b64d => s.b64d.port
  | .b32e => s.b32e.port
  | .b32d => s.b32d.port
  | .b16e => s.b16e.port
  | .b16d => s.b16d.port

/-- The address spaces a unit or the host reads (10_state.md R40); `IN` is presented, not stored (R41). -/
inductive Space where
  | e64 | d64 | e32 | d32 | e16 | d16
  | obuf (u : UnitId)
  | out (u : UnitId)
  deriving DecidableEq, Repr

/-- `MemRead(S:a, 1)` (00_scope.md R14): the byte at index `a` of a space, none where the index does not exist. -/
def memRead (s : State) (sp : Space) (a : Nat) : Option Byte :=
  match sp with
  | .e64 => if a < 128 then some (romE64 (BitVec.ofNat 7 a)) else none
  | .d64 => if a < 512 then some (romD64 (BitVec.ofNat 9 a)) else none
  | .e32 => if a < 64 then some (romE32 (BitVec.ofNat 6 a)) else none
  | .d32 => if a < 512 then some (romD32 (BitVec.ofNat 9 a)) else none
  | .e16 => if a < 32 then some (romE16 (BitVec.ofNat 5 a)) else none
  | .d16 => if a < 256 then some (romD16 (BitVec.ofNat 8 a)) else none
  | .obuf u => (s.port u).obuf[a]?
  | .out u => (s.port u).out[a]?

/-- Go on with `k` after a next state; a stop stays as it is. -/
def andThen (o : Host.Outcome State Fault Refusal) (k : State → Host.Outcome State Fault Refusal) :
    Host.Outcome State Fault Refusal :=
  match o with
  | .next s => k s
  | .fault f => .fault f
  | .refused r => .refused r

end Sys2Proof.Machine
end

