-- ==== Sys2Proof/Machine/UnitB16.lean ====
section
/-! DEFINITION. The event rules of B16E and B16D (43_base16.md R201, R205, R206; 10_state.md R50). -/

namespace Sys2Proof.Machine

open Sys2Proof

/-- The two characters of a byte (43_base16.md R200, R201). -/
def hexChars (sel : BitVec 1) (x : Byte) : List Byte := (nibbles x).map (e16 sel)

/-- B16E, `SYMBOL(x)` (43_base16.md R201). -/
def B16E.symbol (x : Byte) (u : B16E) : B16E :=
  { u with port := u.port.append (hexChars (flagOf u.port.cfg) x) }

/-- B16E, `END` (43_base16.md R201). -/
def B16E.finish (u : B16E) : B16E := { u with port := u.port.finishEncoder [] }

/-- Every working register of B16D at 0 (10_state.md R50). -/
def B16D.cleared (p : Port) : B16D :=
  { port := p, pos := 0, first0 := false, hi := 0, haveHi := false, fail := false }

/-- B16D raises `DecodeFail` (60_exceptions.md R255). -/
def B16D.raise (cause : Cause) (u : B16D) : B16D := { u with fail := raiseDecodeFail cause u.fail }

/-- What every `SYMBOL` of B16D does first, also after a failure: `POS` moves on, saturating at 2, and the symbol at position 0
sets `FIRST0` (43_base16.md R205). -/
def B16D.advance (x : Byte) (u : B16D) : B16D :=
  { u with
    pos := BitVec.ofNat 2 (min (u.pos.toNat + 1) 2)
    first0 := if u.pos = 0 then x == 0x30 else u.first0 }

/-- `x` at position 1 after a `0` at position 0: the end of a `0x` prefix (43_base16.md R205 arm 2). -/
def B16D.endsPrefix (x : Byte) (u : B16D) : Bool := u.pos == 1 && u.first0 && (x == 0x78 || x == 0x58)

/-- B16D, `SYMBOL(x)`: the four arms of 43_base16.md R205, in its order; the tests read the registers from before the event. -/
def B16D.symbol (x : Byte) (u : B16D) : B16D :=
  if u.fail then u.advance x
  else if u.endsPrefix x then { u.advance x with haveHi := false, hi := 0 }
  else if isWs x then u.advance x
  else if d16 x = sentinel then (u.advance x).raise .symbol
  else if u.haveHi then
    { u.advance x with port := u.port.append [joinNibbles u.hi ((d16 x).setWidth 4)], haveHi := false }
  else { u.advance x with hi := (d16 x).setWidth 4, haveHi := true }

/-- B16D, `END` (43_base16.md R206). -/
def B16D.finish (u : B16D) : B16D :=
  if u.fail || u.haveHi then { u with port := u.port.failAtEnd }
  else { u with port := u.port.succeed u.port.obuf }

end Sys2Proof.Machine
end

