-- ==== Sys2Proof/Machine/UnitB32.lean ====
section
/-! DEFINITION. The event rules of B32E and B32D (42_base32.md R171, R172, R181, R183; 10_state.md R50). -/

namespace Sys2Proof.Machine

open Sys2Proof

/-- Every working register of B32E at 0 (10_state.md R50). -/
def B32E.cleared (p : Port) : B32E := { port := p, b := Vector.replicate 5 0, cnt := 0 }

/-- B32E, `SYMBOL(x)` (42_base32.md R171). -/
def B32E.symbol (x : Byte) (u : B32E) : B32E :=
  if u.cnt.toNat < 4 then
    { u with b := u.b.setIfInBounds u.cnt.toNat x, cnt := u.cnt + 1 }
  else
    { u with
      port := u.port.append ((pack32 u.b[0] u.b[1] u.b[2] u.b[3] x).map (e32 (variantOf u.port.cfg)))
      cnt := 0 }

/-- `B[i]` where the group holds it, else a zero byte (42_base32.md R172: "then 5-CNT zero bytes"). -/
def B32E.held (u : B32E) (i : Fin 5) : Byte := if i.val < u.cnt.toNat then u.b[i] else 0

/-- The characters B32E's END appends for a short group (42_base32.md R172). -/
def B32E.tail (u : B32E) : List Byte :=
  if u.cnt.toNat = 0 then []
  else
    ((pack32 (u.held 0) (u.held 1) (u.held 2) (u.held 3) (u.held 4)).take (dataChars32 u.cnt.toNat)).map
        (e32 (variantOf u.port.cfg))
      ++ (if flagOf u.port.cfg = 1 then List.replicate (8 - dataChars32 u.cnt.toNat) padChar else [])

/-- B32E, `END` (42_base32.md R172). -/
def B32E.finish (u : B32E) : B32E := { u with port := u.port.finishEncoder u.tail }

/-- Every working register of B32D at 0 (10_state.md R50). -/
def B32D.cleared (p : Port) : B32D :=
  { port := p, c := Vector.replicate 8 0, cnt := 0, padcnt := 0, closed := false, fail := false }

/-- B32D raises `DecodeFail`; every other register keeps its value (60_exceptions.md R255). -/
def B32D.raise (cause : Cause) (u : B32D) : B32D := { u with fail := raiseDecodeFail cause u.fail }

/-- `unpack32(C, k)` (42_base32.md R181). -/
def B32D.unpack (u : B32D) (k : Nat) : List Byte :=
  unpack32 u.c[0] u.c[1] u.c[2] u.c[3] u.c[4] u.c[5] u.c[6] u.c[7] k

/-- B32D, `SYMBOL(x)`: the five arms of 42_base32.md R181, in its order. With `odd = .fail` the group of 3 or 6 data symbols
fails at its first `=`, as the rule says; with `.floor` it goes on as 92_eei_decisions.md D14 describes. The
label `padding` for a `=` after one data character is R181's; 60_exceptions.md R252 labels that case `structure`, and the model takes
the arm's (DESIGN CHOICE, log entry 15: safe, a label is in no state). -/
def B32D.symbol (odd : OddCount) (x : Byte) (u : B32D) : B32D :=
  if u.fail then u
  else if isWs x then
    if u.cnt = 0 ∧ u.padcnt = 0 then u else u.raise .structural
  else if u.closed then u.raise .structural
  else if isPad x then
    if u.cnt.toNat < 2 then u.raise .padding
    else
      match usable32 odd u.cnt.toNat with
      | none => u.raise .structural
      | some k =>
        if u.cnt.toNat + u.padcnt.toNat + 1 = 8 then
          { u with port := u.port.append (u.unpack k), cnt := 0, padcnt := 0, closed := true }
        else { u with padcnt := u.padcnt + 1 }
  else if d32 (variantOf u.port.cfg) x = sentinel then u.raise .symbol
  else if u.padcnt ≠ 0 then u.raise .structural
  else if u.cnt = 7 then
    { u with
      port := u.port.append (unpack32 u.c[0] u.c[1] u.c[2] u.c[3] u.c[4] u.c[5] u.c[6]
        ((d32 (variantOf u.port.cfg) x).setWidth 5) 8)
      cnt := 0 }
  else
    { u with
      c := u.c.setIfInBounds u.cnt.toNat ((d32 (variantOf u.port.cfg) x).setWidth 5)
      cnt := u.cnt + 1 }

/-- B32D, `END` (42_base32.md R183). -/
def B32D.finish (odd : OddCount) (u : B32D) : B32D :=
  if u.fail then { u with port := u.port.failAtEnd }
  else if u.padcnt ≠ 0 then { u with port := u.port.failAtEnd }
  else if u.cnt = 0 then { u with port := u.port.succeed u.port.obuf }
  else
    match usable32 odd u.cnt.toNat with
    | some k => { u with port := u.port.succeed (u.port.obuf ++ u.unpack k) }
    | none => { u with port := u.port.failAtEnd }

end Sys2Proof.Machine
end

