-- ==== Sys2Proof/Machine/UnitB64.lean ====
section
/-! DEFINITION. The event rules of B64E and B64D (41_base64.md R141, R142, R151, R153; 10_state.md R50). -/

namespace Sys2Proof.Machine

open Sys2Proof

/-- Every working register of B64E at 0 (10_state.md R50). -/
def B64E.cleared (p : Port) : B64E := { port := p, b := Vector.replicate 3 0, cnt := 0 }

/-- B64E, `SYMBOL(x)` (41_base64.md R141). -/
def B64E.symbol (x : Byte) (u : B64E) : B64E :=
  if u.cnt.toNat < 2 then
    { u with b := u.b.setIfInBounds u.cnt.toNat x, cnt := u.cnt + 1 }
  else
    { u with port := u.port.append ((pack64 u.b[0] u.b[1] x).map (e64 (variantOf u.port.cfg))), cnt := 0 }

/-- The characters B64E's END appends for a short group (41_base64.md R142). -/
def B64E.tail (u : B64E) : List Byte :=
  if u.cnt = 1 then
    ((pack64 u.b[0] 0 0).take 2).map (e64 (variantOf u.port.cfg))
      ++ (if flagOf u.port.cfg = 1 then [padChar, padChar] else [])
  else if u.cnt = 2 then
    ((pack64 u.b[0] u.b[1] 0).take 3).map (e64 (variantOf u.port.cfg))
      ++ (if flagOf u.port.cfg = 1 then [padChar] else [])
  else []

/-- B64E, `END` (41_base64.md R142). -/
def B64E.finish (u : B64E) : B64E := { u with port := u.port.finishEncoder u.tail }

/-- Every working register of B64D at 0 (10_state.md R50). -/
def B64D.cleared (p : Port) : B64D :=
  { port := p, v := Vector.replicate 4 0, cnt := 0, padcnt := 0, closed := false, fail := false }

/-- B64D raises `DecodeFail`; every other register keeps its value (60_exceptions.md R255). -/
def B64D.raise (cause : Cause) (u : B64D) : B64D := { u with fail := raiseDecodeFail cause u.fail }

/-- B64D, `SYMBOL(x)`: the five arms of 41_base64.md R151, in its order. The
label `padding` for a `=` after one data character is R151's; 60_exceptions.md R252 labels that case `structure`, and the model takes
the arm's (DESIGN CHOICE, log entry 15: safe, a label is in no state). -/
def B64D.symbol (x : Byte) (u : B64D) : B64D :=
  if u.fail then u
  else if isWs x then
    if u.cnt = 0 ∧ u.padcnt = 0 then u else u.raise .structural
  else if u.closed then u.raise .structural
  else if isPad x then
    if u.cnt.toNat < 2 then u.raise .padding
    else if u.cnt.toNat + u.padcnt.toNat + 1 = 4 then
      { u with
        port := u.port.append (unpack64 u.v[0] u.v[1] u.v[2] u.v[3] u.cnt.toNat)
        cnt := 0
        padcnt := 0
        closed := true }
    else { u with padcnt := 1 }
  else if d64 (variantOf u.port.cfg) x = sentinel then u.raise .symbol
  else if u.padcnt ≠ 0 then u.raise .structural
  else if u.cnt = 3 then
    { u with
      port := u.port.append (unpack64 u.v[0] u.v[1] u.v[2] ((d64 (variantOf u.port.cfg) x).setWidth 6) 4)
      cnt := 0 }
  else
    { u with
      v := u.v.setIfInBounds u.cnt.toNat ((d64 (variantOf u.port.cfg) x).setWidth 6)
      cnt := u.cnt + 1 }

/-- B64D, `END` (41_base64.md R153). -/
def B64D.finish (u : B64D) : B64D :=
  if u.fail then { u with port := u.port.failAtEnd }
  else if u.padcnt ≠ 0 then { u with port := u.port.failAtEnd }
  else if u.cnt = 0 then { u with port := u.port.succeed u.port.obuf }
  else if variantOf u.port.cfg = 1 ∧ u.cnt = 2 then
    { u with port := u.port.succeed (u.port.obuf ++ unpack64 u.v[0] u.v[1] u.v[2] u.v[3] 2) }
  else if variantOf u.port.cfg = 1 ∧ u.cnt = 3 then
    { u with port := u.port.succeed (u.port.obuf ++ unpack64 u.v[0] u.v[1] u.v[2] u.v[3] 3) }
  else { u with port := u.port.failAtEnd }

end Sys2Proof.Machine
end

