-- ==== Sys2Proof/Machine/Events.lean ====
section
/-! DEFINITION. Presenting an event to a unit (10_state.md R22, R23) and running one transaction (R24; 00_scope.md R16). -/

namespace Sys2Proof.Machine

open Sys2Proof

/-- `RESET` of one unit: every register to the column "after RESET" (10_state.md R50; 70_reset_and_hazards.md R280). -/
def State.applyReset (u : UnitId) (s : State) : State :=
  match u with
  | .b64e => { s with b64e := B64E.cleared s.b64e.port.onReset }
  | .b64d => { s with b64d := B64D.cleared s.b64d.port.onReset }
  | .b32e => { s with b32e := B32E.cleared s.b32e.port.onReset }
  | .b32d => { s with b32d := B32D.cleared s.b32d.port.onReset }
  | .b16e => { s with b16e := { port := s.b16e.port.onReset } }
  | .b16d => { s with b16d := B16D.cleared s.b16d.port.onReset }

/-- `START(cfg)` of one unit: every register to the column "after START" (10_state.md R50). -/
def State.applyStart (u : UnitId) (cfg : Cfg) (s : State) : State :=
  match u with
  | .b64e => { s with b64e := B64E.cleared (s.b64e.port.onStart cfg) }
  | .b64d => { s with b64d := B64D.cleared (s.b64d.port.onStart cfg) }
  | .b32e => { s with b32e := B32E.cleared (s.b32e.port.onStart cfg) }
  | .b32d => { s with b32d := B32D.cleared (s.b32d.port.onStart cfg) }
  | .b16e => { s with b16e := { port := s.b16e.port.onStart cfg } }
  | .b16d => { s with b16d := B16D.cleared (s.b16d.port.onStart cfg) }

/-- `SYMBOL(x)` of one unit, and the host's index moved on by one (10_state.md R30). -/
def State.applySymbol (u : UnitId) (x : Byte) (s : State) : State :=
  match u with
  | .b64e => { s with b64e := B64E.symbol x { s.b64e with port := s.b64e.port.count } }
  | .b64d => { s with b64d := B64D.symbol x { s.b64d with port := s.b64d.port.count } }
  | .b32e => { s with b32e := B32E.symbol x { s.b32e with port := s.b32e.port.count } }
  | .b32d =>
    { s with b32d := B32D.symbol s.params.b32OddCount x { s.b32d with port := s.b32d.port.count } }
  | .b16e => { s with b16e := B16E.symbol x { s.b16e with port := s.b16e.port.count } }
  | .b16d => { s with b16d := B16D.symbol x { s.b16d with port := s.b16d.port.count } }

/-- `END` of one unit. -/
def State.applyFinish (u : UnitId) (s : State) : State :=
  match u with
  | .b64e => { s with b64e := s.b64e.finish }
  | .b64d => { s with b64d := s.b64d.finish }
  | .b32e => { s with b32e := s.b32e.finish }
  | .b32d => { s with b32d := s.b32d.finish s.params.b32OddCount }
  | .b16e => { s with b16e := s.b16e.finish }
  | .b16d => { s with b16d := s.b16d.finish }

/-- The effect of an event on one unit, where the event is not refused. -/
def State.apply (u : UnitId) (e : Event) (s : State) : State :=
  match e with
  | .reset => s.applyReset u
  | .start cfg => s.applyStart u cfg
  | .symbol x => s.applySymbol u x
  | .finish => s.applyFinish u

/-- The reservation a `START(cfg)` to a unit meets, if any (30_encoding.md R124; 10_state.md R34: "reserved, must be 0"). -/
def startReserved (u : UnitId) (cfg : Cfg) : Option Reserved :=
  match decode (u.code ++ cfg) [] with
  | .ok _ => none
  | .error why => some why

/-- Why an event is refused, if it is: a reserved configuration (in every state, 10_state.md R23), no RESET yet
(70_reset_and_hazards.md R280), the protocol table (R23), `MAX_LEN` (00_scope.md R9). The order among them is the model's
(assumption log entry 2). -/
def refusalOf (u : UnitId) (e : Event) (s : State) : Option Refusal :=
  match e with
  | .reset => none
  | .start cfg =>
    match startReserved u cfg with
    | some why => some (.reservedDescriptor why)
    | none =>
      if (s.port u).wasReset = false then some (.neverReset u)
      else if legal (s.port u).st e = false then some (.outOfProtocol u e (s.port u).st)
      else none
  | .symbol _ =>
    if (s.port u).wasReset = false then some (.neverReset u)
    else if legal (s.port u).st e = false then some (.outOfProtocol u e (s.port u).st)
    else if s.params.admits ((s.port u).sent + 1) = false then some (.tooLong u)
    else none
  | .finish =>
    if (s.port u).wasReset = false then some (.neverReset u)
    else if legal (s.port u).st e = false then some (.outOfProtocol u e (s.port u).st)
    else none

/-- The host presents an event to a unit: refused, or its whole effect at once (10_state.md R22, R23). -/
def present (u : UnitId) (e : Event) (s : State) : Host.Outcome State Fault Refusal :=
  match refusalOf u e s with
  | some r => .refused r
  | none => .next (s.apply u e)

/-- The host presents the symbols of a message in order (10_state.md R24). -/
def presentAll (u : UnitId) (message : List Byte) (s : State) : Host.Outcome State Fault Refusal :=
  match message with
  | [] => .next s
  | x :: rest => andThen (present u (.symbol x) s) (presentAll u rest)

/-- One transaction, `START(cfg); SYMBOL(x0); ...; SYMBOL(x(n-1)); END` (10_state.md R24; 00_scope.md R16). -/
def transact (u : UnitId) (cfg : Cfg) (message : List Byte) (s : State) : Host.Outcome State Fault Refusal :=
  andThen (present u (.start cfg) s) fun s1 =>
    andThen (presentAll u message s1) fun s2 =>
      present u .finish s2

end Sys2Proof.Machine
end

