-- ==== Sys2Proof/Machine/Base16.lean ====
section
/-! DEFINITION. The three Base16 operations (43_base16.md R202, R203, R207): each is one transaction on its unit with the
`cfg` of its descriptor, `FLAG` (uppercase) in bit 1. -/

namespace Sys2Proof.Machine

open Sys2Proof

/-- `B16ENC.LOWER bytes` (43_base16.md R202). -/
def execB16encLower (bytes : List Byte) (s : State) : Host.Outcome State Fault Refusal :=
  transact .b16e 0b00 bytes s

/-- `B16ENC.UPPER bytes` (R203). -/
def execB16encUpper (bytes : List Byte) (s : State) : Host.Outcome State Fault Refusal :=
  transact .b16e 0b10 bytes s

/-- `B16DEC text` (R207). -/
def execB16dec (text : List Byte) (s : State) : Host.Outcome State Fault Refusal :=
  transact .b16d 0b00 text s

end Sys2Proof.Machine
end

