-- ==== Sys2Proof/Machine/Base32.lean ====
section
/-! DEFINITION. The six Base32 operations (42_base32.md R173 to R176, R185, R186): each is one transaction on its unit with
the `cfg` of its descriptor, `FLAG` in bit 1 and `VARIANT` in bit 0. -/

namespace Sys2Proof.Machine

open Sys2Proof

/-- `B32ENC.STD.NOPAD bytes` (42_base32.md R173). -/
def execB32encStdNopad (bytes : List Byte) (s : State) : Host.Outcome State Fault Refusal :=
  transact .b32e 0b00 bytes s

/-- `B32ENC.HEX.NOPAD bytes` (R175). -/
def execB32encHexNopad (bytes : List Byte) (s : State) : Host.Outcome State Fault Refusal :=
  transact .b32e 0b01 bytes s

/-- `B32ENC.STD.PAD bytes` (R174). -/
def execB32encStdPad (bytes : List Byte) (s : State) : Host.Outcome State Fault Refusal :=
  transact .b32e 0b10 bytes s

/-- `B32ENC.HEX.PAD bytes` (R176). -/
def execB32encHexPad (bytes : List Byte) (s : State) : Host.Outcome State Fault Refusal :=
  transact .b32e 0b11 bytes s

/-- `B32DEC.STD text` (R185). -/
def execB32decStd (text : List Byte) (s : State) : Host.Outcome State Fault Refusal :=
  transact .b32d 0b00 text s

/-- `B32DEC.HEX text` (R186). -/
def execB32decHex (text : List Byte) (s : State) : Host.Outcome State Fault Refusal :=
  transact .b32d 0b01 text s

end Sys2Proof.Machine
end

