-- ==== Sys2Proof/Machine/Base64.lean ====
section
/-! DEFINITION. The six Base64 operations (41_base64.md R143 to R146, R155, R156): each is one transaction on its unit with
the `cfg` of its descriptor, `FLAG` in bit 1 and `VARIANT` in bit 0. -/

namespace Sys2Proof.Machine

open Sys2Proof

/-- `B64ENC.STD.NOPAD bytes` (41_base64.md R143). -/
def execB64encStdNopad (bytes : List Byte) (s : State) : Host.Outcome State Fault Refusal :=
  transact .b64e 0b00 bytes s

/-- `B64ENC.URL.NOPAD bytes` (R145). -/
def execB64encUrlNopad (bytes : List Byte) (s : State) : Host.Outcome State Fault Refusal :=
  transact .b64e 0b01 bytes s

/-- `B64ENC.STD.PAD bytes` (R144). -/
def execB64encStdPad (bytes : List Byte) (s : State) : Host.Outcome State Fault Refusal :=
  transact .b64e 0b10 bytes s

/-- `B64ENC.URL.PAD bytes` (R146). -/
def execB64encUrlPad (bytes : List Byte) (s : State) : Host.Outcome State Fault Refusal :=
  transact .b64e 0b11 bytes s

/-- `B64DEC.STD text` (R155). -/
def execB64decStd (text : List Byte) (s : State) : Host.Outcome State Fault Refusal :=
  transact .b64d 0b00 text s

/-- `B64DEC.URL text` (R156). -/
def execB64decUrl (text : List Byte) (s : State) : Host.Outcome State Fault Refusal :=
  transact .b64d 0b01 text s

end Sys2Proof.Machine
end

