-- ==== Sys2Proof/Machine/Dispatch.lean ====
section
/-! DEFINITION. The operations' meanings, one arm per constructor of Instr (30_encoding.md R121). -/

namespace Sys2Proof.Machine

open Sys2Proof

def exec (i : Instr) (s : State) : Host.Outcome State Fault Refusal :=
  match i with
  | .b64encStdNopad bytes => Sys2Proof.Machine.execB64encStdNopad bytes s
  | .b64encUrlNopad bytes => Sys2Proof.Machine.execB64encUrlNopad bytes s
  | .b64encStdPad bytes => Sys2Proof.Machine.execB64encStdPad bytes s
  | .b64encUrlPad bytes => Sys2Proof.Machine.execB64encUrlPad bytes s
  | .b64decStd text => Sys2Proof.Machine.execB64decStd text s
  | .b64decUrl text => Sys2Proof.Machine.execB64decUrl text s
  | .b32encStdNopad bytes => Sys2Proof.Machine.execB32encStdNopad bytes s
  | .b32encHexNopad bytes => Sys2Proof.Machine.execB32encHexNopad bytes s
  | .b32encStdPad bytes => Sys2Proof.Machine.execB32encStdPad bytes s
  | .b32encHexPad bytes => Sys2Proof.Machine.execB32encHexPad bytes s
  | .b32decStd text => Sys2Proof.Machine.execB32decStd text s
  | .b32decHex text => Sys2Proof.Machine.execB32decHex text s
  | .b16encLower bytes => Sys2Proof.Machine.execB16encLower bytes s
  | .b16encUpper bytes => Sys2Proof.Machine.execB16encUpper bytes s
  | .b16dec text => Sys2Proof.Machine.execB16dec text s

end Sys2Proof.Machine
end

