-- ==== Sys2Proof/Machine/HostActions.lean ====
section
/-! DEFINITION. What one action of the host does (10_state.md R20, R22): an event, a whole line of a program
(30_encoding.md R127), or a read (20_memory.md R83, R88 (c)). -/

namespace Sys2Proof.Machine

open Sys2Proof

/-- An undefined read goes on: its free value is the host's, and the next one will be fresh (log entry 10). -/
def State.takeUndefined (v : ReadValue) (s : State) : State :=
  { s with lastRead := some v, undefinedReads := s.undefinedReads + 1 }

/-- A host read of a unit that was never `RESET`: any host may read a host-visible register (60_exceptions.md R262), and what it
shows "has no defined value" (70_reset_and_hazards.md R280), a free value of Config. A working register is not readable (93 U13). -/
def readUndefined (u : UnitId) (r : ReadTarget) (s : State) : Host.Outcome State Fault Refusal :=
  match r with
  | .status => .next (s.takeUndefined (.status (Config.undefinedStatus s.undefinedReads)))
  | .cfg => .next (s.takeUndefined (.cfg (Config.undefinedCfg s.undefinedReads)))
  | .outLen => .next (s.takeUndefined (.outLen (Config.undefinedOutLen s.undefinedReads)))
  | .out => .next (s.takeUndefined (.out (Config.undefinedOut s.undefinedReads)))
  | .outByte _ => .next (s.takeUndefined (.outByte (Config.undefinedOutByte s.undefinedReads)))
  | .working w => .refused (.notReadable u w)

/-- The host reads a register of a unit: no unit changes (20_memory.md R83), the value goes to the host. A working register is
not readable (10_state.md R25, U13). -/
def readTarget (u : UnitId) (r : ReadTarget) (s : State) : Host.Outcome State Fault Refusal :=
  if (s.port u).wasReset = false then readUndefined u r s
  else
    match r with
    | .status => .next { s with lastRead := some (.status (s.port u).status) }
    | .cfg => .next { s with lastRead := some (.cfg (s.port u).cfg) }
    | .outLen => .next { s with lastRead := some (.outLen (s.port u).outLen) }
    | .out => .next { s with lastRead := some (.out (s.port u).out) }
    | .outByte a =>
      match memRead s (.out u) a with
      | some y => .next { s with lastRead := some (.outByte y) }
      | none => .fault (.noSuchOutByte u a)
    | .working w => .refused (.notReadable u w)

/-- One action of the host. A reserved descriptor is refused whatever the state of any unit (30_encoding.md R124). -/
def act (a : HostAction) (s : State) : Host.Outcome State Fault Refusal :=
  match a with
  | .reset u => present u .reset s
  | .start opd =>
    match decode opd [] with
    | .ok i => present i.unit (.start i.cfg) s
    | .error why => .refused (.reservedDescriptor why)
  | .symbol u x => present u (.symbol x) s
  | .finish u => present u .finish s
  | .line opd message =>
    match decode opd message with
    | .ok i => exec i s
    | .error why => .refused (.reservedDescriptor why)
  | .read u r => readTarget u r s

/-- The next action of the host, taken from its script; with an empty script the host presents nothing and nothing changes
(assumption log entry 3). -/
def takeAction (s : State) : Host.Outcome State Fault Refusal :=
  match s.script with
  | [] => .next s
  | a :: rest => act a { s with script := rest }

/-- The events of an operation, one action each (10_state.md R24). -/
def eventActions (i : Instr) : List HostAction :=
  .start (encode i).1 :: (i.message.map (HostAction.symbol i.unit) ++ [.finish i.unit])

end Sys2Proof.Machine
end

