-- ==== Sys2Proof/Machine/Step.lean ====
section
/-! DEFINITION. One step of the machine: one action of the host (10_state.md R20, R22). -/

namespace Sys2Proof.Machine

open Sys2Proof

/-- One step: the host's next action. -/
def step (s : State) : Host.Outcome State Fault Refusal := takeAction s

/-- The state in which the host is about to present the operation of a table word, with an empty message: the block fetches
nothing, the host presents the descriptor (10_state.md R30; assumption log entries 1 and 13). -/
def State.withFetchWord (s : State) (_nbits w : Nat) : State :=
  { s with script := .line (descriptorOfWord w) [] :: s.script }

end Sys2Proof.Machine
end

