-- ==== Sys2Proof/Machine/Message.lean ====
section
/-! DEFINITION. The whole-message functions of the spec: `enc64` (41_base64.md R140), `enc32` (42_base32.md R170), `enc16` and
`dec16` (43_base16.md R200, R208), and what it is for a text to decode to bytes under `dec64` (41 R154) and `dec32` (42 R184),
written as those rules write it: a decomposition of the text into groups and runs of whitespace. The step never calls these;
statements hold the event rules to them (44_validation_and_laws.md R236). -/

namespace Sys2Proof.Machine

open Sys2Proof

/-- `enc64(variant, pad, bytes)` (41_base64.md R140): the full groups in order, then the short one. -/
def enc64 (variant pad : BitVec 1) (bytes : List Byte) : List Byte :=
  match bytes with
  | [] => []
  | [b1] => ((pack64 b1 0 0).take 2).map (e64 variant) ++ (if pad = 1 then [padChar, padChar] else [])
  | [b1, b2] => ((pack64 b1 b2 0).take 3).map (e64 variant) ++ (if pad = 1 then [padChar] else [])
  | b1 :: b2 :: b3 :: rest => (pack64 b1 b2 b3).map (e64 variant) ++ enc64 variant pad rest

/-- The short group of `enc32` for `r` remaining bytes, `r` from 1 to 4 (42_base32.md R170). -/
def encShort32 (variant pad : BitVec 1) (b1 b2 b3 b4 : Byte) (r : Nat) : List Byte :=
  ((pack32 b1 b2 b3 b4 0).take (dataChars32 r)).map (e32 variant)
    ++ (if pad = 1 then List.replicate (8 - dataChars32 r) padChar else [])

/-- `enc32(variant, pad, bytes)` (42_base32.md R170). -/
def enc32 (variant pad : BitVec 1) (bytes : List Byte) : List Byte :=
  match bytes with
  | [] => []
  | [b1] => encShort32 variant pad b1 0 0 0 1
  | [b1, b2] => encShort32 variant pad b1 b2 0 0 2
  | [b1, b2, b3] => encShort32 variant pad b1 b2 b3 0 3
  | [b1, b2, b3, b4] => encShort32 variant pad b1 b2 b3 b4 4
  | b1 :: b2 :: b3 :: b4 :: b5 :: rest => (pack32 b1 b2 b3 b4 b5).map (e32 variant) ++ enc32 variant pad rest

/-- `enc16(upper, bytes)` (43_base16.md R200). -/
def enc16 (upper : BitVec 1) (bytes : List Byte) : List Byte :=
  bytes.flatMap fun b => (nibbles b).map (e16 upper)

/-- A run of whitespace symbols, possibly empty. -/
def wsRun (w : List Byte) : Bool := w.all isWs

/-- A run of data characters of a Base64 variant (41_base64.md R154 (a)). -/
def dataRun64 (variant : BitVec 1) (g : List Byte) : Bool := g.all fun c => d64 variant c != sentinel

/-- A final Base64 group `g` followed by the whitespace `w` (41_base64.md R154 (b)). -/
def lastGroup64 (variant : BitVec 1) (g w : List Byte) : Bool :=
  (g.length == 4 && dataRun64 variant g)
  || (g.length == 4 && dataRun64 variant (g.take 3) && g.drop 3 == [padChar])
  || (g.length == 4 && dataRun64 variant (g.take 2) && g.drop 2 == [padChar, padChar])
  || (variant == 1 && (g.length == 3 || g.length == 2) && dataRun64 variant g && w == [])

/-- The groups `G1 .. Gm`, each with the whitespace run after it, are as 41_base64.md R154 (a) and (b) want them. -/
def groups64 (variant : BitVec 1) (gs : List (List Byte × List Byte)) : Bool :=
  match gs with
  | [] => true
  | [(g, w)] => lastGroup64 variant g w && wsRun w
  | (g, w) :: next :: rest => g.length == 4 && dataRun64 variant g && wsRun w && groups64 variant (next :: rest)

/-- `unpack64` of the values of a group's data characters, their count (41_base64.md R154). -/
def groupBytes64 (variant : BitVec 1) (g : List Byte) : List Byte :=
  let ds := (g.filter fun c => !isPad c).map fun c => (d64 variant c).setWidth 6
  unpack64 (ds.getD 0 0) (ds.getD 1 0) (ds.getD 2 0) (ds.getD 3 0) ds.length

/-- `dec64(variant, text) = (1, bytes)` (41_base64.md R154). -/
def DecodesTo64 (variant : BitVec 1) (text bytes : List Byte) : Prop :=
  ∃ (w0 : List Byte) (gs : List (List Byte × List Byte)),
    wsRun w0 = true ∧ groups64 variant gs = true
    ∧ text = w0 ++ gs.flatMap (fun p => p.1 ++ p.2)
    ∧ bytes = gs.flatMap fun p => groupBytes64 variant p.1

/-- A run of data characters of a Base32 variant (42_base32.md R184 (a)). -/
def dataRun32 (variant : BitVec 1) (g : List Byte) : Bool := g.all fun c => d32 variant c != sentinel

/-- The number of data characters before a group's padding. -/
def dataCount (g : List Byte) : Nat := (g.filter fun c => !isPad c).length

/-- A final Base32 group `g` of `k` data characters followed by the whitespace `w` (42_base32.md R184 (b)): 8 data
characters, or `k` of them and `8 - k` padding characters, or `k` of them with no padding and no whitespace after. -/
def lastGroup32 (odd : OddCount) (variant : BitVec 1) (g w : List Byte) : Bool :=
  let k := dataCount g
  dataRun32 variant (g.take k)
  && (usable32 odd k).isSome
  && (g.drop k == List.replicate (8 - k) padChar || (g.length == k && w == []))

/-- The groups are as 42_base32.md R184 (a) and (b) want them. -/
def groups32 (odd : OddCount) (variant : BitVec 1) (gs : List (List Byte × List Byte)) : Bool :=
  match gs with
  | [] => true
  | [(g, w)] => lastGroup32 odd variant g w && wsRun w
  | (g, w) :: next :: rest => g.length == 8 && dataRun32 variant g && wsRun w && groups32 odd variant (next :: rest)

/-- `unpack32` of the values of a group's data characters (42_base32.md R184; `odd` is `B32_ODD_COUNT`). -/
def groupBytes32 (odd : OddCount) (variant : BitVec 1) (g : List Byte) : List Byte :=
  let ds := (g.filter fun c => !isPad c).map fun c => (d32 variant c).setWidth 5
  unpack32 (ds.getD 0 0) (ds.getD 1 0) (ds.getD 2 0) (ds.getD 3 0) (ds.getD 4 0) (ds.getD 5 0) (ds.getD 6 0) (ds.getD 7 0)
    ((usable32 odd ds.length).getD 0)

/-- `dec32(variant, text) = (1, bytes)` (42_base32.md R184; with `odd = .fail` it is the rule word for word). -/
def DecodesTo32 (odd : OddCount) (variant : BitVec 1) (text bytes : List Byte) : Prop :=
  ∃ (w0 : List Byte) (gs : List (List Byte × List Byte)),
    wsRun w0 = true ∧ groups32 odd variant gs = true
    ∧ text = w0 ++ gs.flatMap (fun p => p.1 ++ p.2)
    ∧ bytes = gs.flatMap fun p => groupBytes32 odd variant p.1

/-- A text that begins with the prefix `0x` or `0X` (43_base16.md R209). -/
def hasPrefix16 (text : List Byte) : Bool :=
  match text with
  | a :: b :: _ => a == 0x30 && (b == 0x78 || b == 0x58)
  | _ => false

/-- The symbols left after the prefix and all whitespace are taken away (43_base16.md R208). -/
def hexSymbols (text : List Byte) : List Byte :=
  (if hasPrefix16 text then text.drop 2 else text).filter fun c => !isWs c

/-- Each adjacent pair of symbols as one byte (43_base16.md R208). -/
def joinPairs16 (h : List Byte) : List Byte :=
  match h with
  | a :: b :: rest => joinNibbles ((d16 a).setWidth 4) ((d16 b).setWidth 4) :: joinPairs16 rest
  | _ => []

/-- `dec16(text)`: the bytes where `ok = 1`, none where it is 0 (43_base16.md R208). -/
def dec16 (text : List Byte) : Option (List Byte) :=
  if (hexSymbols text).any (fun c => d16 c == sentinel) then none
  else if (hexSymbols text).length % 2 = 1 then none
  else some (joinPairs16 (hexSymbols text))

end Sys2Proof.Machine
end

