-- ==== Sys2Proof/Machine/Pseudo.lean ====
section
/-! DEFINITION. The pseudo-operations: D0's defaults (30_encoding.md R128) and `isValid` (44_validation_and_laws.md R220).
They are the host's names for tabled operations; no descriptor names them. -/

namespace Sys2Proof.Machine

open Sys2Proof

/-- The operation a pseudo-operation expands to (30_encoding.md R128). -/
def expandPseudo (p : Pseudo) (message : List Byte) : Instr :=
  match p with
  | .b64encStd => .b64encStdPad message
  | .b64encUrl => .b64encUrlNopad message
  | .b32encStd => .b32encStdPad message
  | .b32encHex => .b32encHexPad message
  | .b16enc => .b16encLower message
  | .b64validStd => .b64decStd message
  | .b64validUrl => .b64decUrl message
  | .b32validStd => .b32decStd message
  | .b32validHex => .b32decHex message
  | .b16valid => .b16dec message

/-- A `VALID` form keeps `OK` and discards `OUT` (44 R220). -/
def keepsOnlyOk (p : Pseudo) : Bool :=
  match p with
  | .b64encStd => false
  | .b64encUrl => false
  | .b32encStd => false
  | .b32encHex => false
  | .b16enc => false
  | .b64validStd => true
  | .b64validUrl => true
  | .b32validStd => true
  | .b32validHex => true
  | .b16valid => true

/-- What the host does for a pseudo-operation: the line, then a read of `STATUS` where only `OK` is wanted (44 R220: "read
`STATUS.OK`; do not read `OUT`"). That it reads `OUT` after a default encode form is the model's choice: R128 gives the expansion
alone (DESIGN CHOICE, log entry 16). -/
def pseudoActions (p : Pseudo) (message : List Byte) : List HostAction :=
  [ .line (encode (expandPseudo p message)).1 message,
    .read (expandPseudo p message).unit (if keepsOnlyOk p then .status else .out) ]

end Sys2Proof.Machine
end

