-- ==== Sys2Proof/WellFormed.lean ====
section
/-! DEFINITION. When an operation has a meaning as syntax: its message is no longer than `MAX_LEN`
(00_scope.md R9; the *Operands* of R143 and the other operation rules). Every descriptor field of an `Instr` is legal by
construction. -/

namespace Sys2Proof

/-- "any Seq(byte) of length 0 to MAX_LEN" (41_base64.md R143). -/
def Instr.wellFormed (p : Params) (i : Instr) : Bool := p.admits i.message.length

end Sys2Proof
end

