-- ==== Sys2Proof/Safety.lean ====
section
/-! DEFINITION. The terms the statements use: when the host may start a transaction, the two invariants of the block, and the
functions on texts that the laws of 44_validation_and_laws.md speak of. -/

namespace Sys2Proof.Machine

open Sys2Proof

/-- A `START` with a legal `cfg` is accepted: the unit was reset and is not in RUN (10_state.md R23; 70 R280). -/
abbrev State.canStart (s : State) (u : UnitId) : Prop := (s.port u).wasReset = true ∧ (s.port u).st ≠ .run

/-- The unit is in the middle of a transaction (10_state.md R23). -/
abbrev State.running (s : State) (u : UnitId) : Prop := (s.port u).wasReset = true ∧ (s.port u).st = .run

/-- Every working register of a unit at 0, with the given common registers (10_state.md R50). -/
def zeroFile (u : UnitId) (p : Port) : UnitFile :=
  match u with
  | .b64e => .b64e { port := p, b := #v[0, 0, 0], cnt := 0 }
  | .b64d => .b64d { port := p, v := #v[0, 0, 0, 0], cnt := 0, padcnt := 0, closed := false, fail := false }
  | .b32e => .b32e { port := p, b := #v[0, 0, 0, 0, 0], cnt := 0 }
  | .b32d => .b32d { port := p, c := #v[0, 0, 0, 0, 0, 0, 0, 0], cnt := 0, padcnt := 0, closed := false, fail := false }
  | .b16e => .b16e { port := p }
  | .b16d => .b16d { port := p, pos := 0, first0 := false, hi := 0, haveHi := false, fail := false }

/-- A space that is a ROM (10_state.md R40). -/
def Space.isRom : Space → Bool
  | .e64 => true
  | .d64 => true
  | .e32 => true
  | .d32 => true
  | .e16 => true
  | .d16 => true
  | .obuf _ => false
  | .out _ => false

/-- The symbols of a message applied one after another (10_state.md R24). -/
def State.applySymbols (u : UnitId) (message : List Byte) (s : State) : State :=
  message.foldl (fun s x => s.applySymbol u x) s

/-- Two states whose unit `u` holds the same in every register an event may read: the value cells `B[i]`, `V[i]`, `C[i]` only for
`i < CNT`, `HI` only when `HAVE_HI` is set (10_state.md R50), everything else always. -/
def State.agreeOnWritten (u : UnitId) (s s' : State) : Prop :=
  match u with
  | .b64e => s'.b64e = { s.b64e with b := s'.b64e.b } ∧ ∀ i : Fin 3, i.val < s.b64e.cnt.toNat → s'.b64e.b[i] = s.b64e.b[i]
  | .b64d => s'.b64d = { s.b64d with v := s'.b64d.v } ∧ ∀ i : Fin 4, i.val < s.b64d.cnt.toNat → s'.b64d.v[i] = s.b64d.v[i]
  | .b32e => s'.b32e = { s.b32e with b := s'.b32e.b } ∧ ∀ i : Fin 5, i.val < s.b32e.cnt.toNat → s'.b32e.b[i] = s.b32e.b[i]
  | .b32d => s'.b32d = { s.b32d with c := s'.b32d.c } ∧ ∀ i : Fin 8, i.val < s.b32d.cnt.toNat → s'.b32d.c[i] = s.b32d.c[i]
  | .b16e => s'.b16e = s.b16e
  | .b16d => s'.b16d = { s.b16d with hi := s'.b16d.hi } ∧ (s.b16d.haveHi = true → s'.b16d.hi = s.b16d.hi)

/-- `n` character codes in order, from `first`. -/
def charsFrom (first n : Nat) : List Byte := (List.range n).map fun k => BitVec.ofNat 8 (first + k)

/-- The Base64 alphabets in digit order: `A-Z a-z 0-9 + /`, and `A-Z a-z 0-9 - _` (20_memory.md R61, R62). -/
def alphabet64 (variant : BitVec 1) : List Byte :=
  charsFrom 0x41 26 ++ charsFrom 0x61 26 ++ charsFrom 0x30 10 ++ (if variant = 0 then [0x2B, 0x2F] else [0x2D, 0x5F])

/-- The Base32 alphabets: `A-Z 2-7`, and `0-9 A-V` (R65, R66). -/
def alphabet32 (variant : BitVec 1) : List Byte :=
  if variant = 0 then charsFrom 0x41 26 ++ charsFrom 0x32 6 else charsFrom 0x30 10 ++ charsFrom 0x41 22

/-- The Base16 alphabets: `0-9a-f`, and `0-9A-F` (R69, R70). -/
def alphabet16 (upper : BitVec 1) : List Byte :=
  charsFrom 0x30 10 ++ (if upper = 0 then charsFrom 0x61 6 else charsFrom 0x41 6)

/-- The place of a character in an alphabet, or the sentinel 255 where it is not in it (R60). -/
def placeIn (alphabet : List Byte) (c : Byte) : Byte :=
  match alphabet.idxOf? c with
  | some i => BitVec.ofNat 8 i
  | none => 255

/-- What holds of the common registers of a unit that has been reset: no result shows outside DONE and none after a failure
(10_state.md R36), `CFG` is legal (R34), and no more symbols were taken than `MAX_LEN` (00_scope.md R9). -/
abbrev Port.Sound (u : UnitId) (p : Params) (q : Port) : Prop :=
  (q.st ≠ .done → q.ok = false ∧ q.out = []) ∧ (q.ok = false → q.out = [])
    ∧ startReserved u q.cfg = none ∧ p.admits q.sent = true

/-- B64E: `CNT` at most 2 (10_state.md R26), and "For an encoder `OK = 1` at every `DONE`" (R35). -/
abbrev B64E.Sound (p : Params) (u : B64E) : Prop :=
  u.port.Sound .b64e p ∧ u.cnt.toNat ≤ 2 ∧ (u.port.st = .done → u.port.ok = true)

/-- B64D: "`PADCNT = 1` only together with `CNT = 2`" (10_state.md R27), and no open group once `CLOSED`. -/
abbrev B64D.Sound (p : Params) (u : B64D) : Prop :=
  u.port.Sound .b64d p ∧ (u.padcnt ≠ 0 → u.cnt = 2) ∧ (u.closed = true → u.cnt = 0 ∧ u.padcnt = 0)

/-- B32E: `CNT` at most 4 (10_state.md R28), and R35 as for B64E. -/
abbrev B32E.Sound (p : Params) (u : B32E) : Prop :=
  u.port.Sound .b32e p ∧ u.cnt.toNat ≤ 4 ∧ (u.port.st = .done → u.port.ok = true)

/-- B32D: "`CNT + PADCNT <= 7`, and `PADCNT > 0` only with `CNT`" a count that `B32_ODD_COUNT` lets be padded (10_state.md R29;
with `fail`, 2, 4, 5 or 7), and no open group once `CLOSED`. -/
abbrev B32D.Sound (p : Params) (u : B32D) : Prop :=
  u.port.Sound .b32d p ∧ u.cnt.toNat + u.padcnt.toNat ≤ 7
    ∧ (u.padcnt ≠ 0 → (usable32 p.b32OddCount u.cnt.toNat).isSome = true)
    ∧ (u.closed = true → u.cnt = 0 ∧ u.padcnt = 0)

/-- B16E: R35 as for B64E. -/
abbrev B16E.Sound (p : Params) (u : B16E) : Prop :=
  u.port.Sound .b16e p ∧ (u.port.st = .done → u.port.ok = true)

/-- B16D: `POS` is the number of symbols so far, saturating at 2 (10_state.md R32), and `FIRST0` is set only by one. -/
abbrev B16D.Sound (p : Params) (u : B16D) : Prop :=
  u.port.Sound .b16d p ∧ u.pos.toNat = min u.port.sent 2 ∧ (u.first0 = true → u.port.sent ≠ 0)

/-- Every unit that has been reset is sound. -/
abbrev State.Sound (s : State) : Prop :=
  (s.b64e.port.wasReset = true → s.b64e.Sound s.params)
  ∧ (s.b64d.port.wasReset = true → s.b64d.Sound s.params)
  ∧ (s.b32e.port.wasReset = true → s.b32e.Sound s.params)
  ∧ (s.b32d.port.wasReset = true → s.b32d.Sound s.params)
  ∧ (s.b16e.port.wasReset = true → s.b16e.Sound s.params)
  ∧ (s.b16d.port.wasReset = true → s.b16d.Sound s.params)

/-- The length law of B64E (44_validation_and_laws.md R230): in the middle of a transaction 4 characters for every 3 symbols
taken, the rest held; at its end `4 ceil(n / 3)` characters with padding and `ceil(4 n / 3)` without. -/
abbrev B64E.LengthsHold (u : B64E) : Prop :=
  (u.port.st ≠ .done → u.cnt.toNat = u.port.sent % 3 ∧ u.port.obuf.length = 4 * (u.port.sent / 3))
  ∧ (u.port.st = .done → u.port.out.length =
      if flagOf u.port.cfg = 1 then 4 * ((u.port.sent + 2) / 3) else (4 * u.port.sent + 2) / 3)

/-- The length bound of B64D (44 R230): `floor(3 L / 4)` bytes for `L` symbols. -/
abbrev B64D.LengthsHold (u : B64D) : Prop :=
  (u.port.st ≠ .done → 4 * u.port.obuf.length + 3 * (u.cnt.toNat + u.padcnt.toNat) ≤ 3 * u.port.sent)
  ∧ (u.port.st = .done → u.port.out.length ≤ 3 * u.port.sent / 4)

/-- The length law of B32E (44 R230): `8 ceil(n / 5)` characters with padding, `ceil(8 n / 5)` without. -/
abbrev B32E.LengthsHold (u : B32E) : Prop :=
  (u.port.st ≠ .done → u.cnt.toNat = u.port.sent % 5 ∧ u.port.obuf.length = 8 * (u.port.sent / 5))
  ∧ (u.port.st = .done → u.port.out.length =
      if flagOf u.port.cfg = 1 then 8 * ((u.port.sent + 4) / 5) else (8 * u.port.sent + 4) / 5)

/-- The length bound of B32D (44 R230): `floor(5 L / 8)` bytes. -/
abbrev B32D.LengthsHold (u : B32D) : Prop :=
  (u.port.st ≠ .done → 8 * u.port.obuf.length + 5 * (u.cnt.toNat + u.padcnt.toNat) ≤ 5 * u.port.sent)
  ∧ (u.port.st = .done → u.port.out.length ≤ 5 * u.port.sent / 8)

/-- The length law of B16E (44 R230): `2 n` characters. -/
abbrev B16E.LengthsHold (u : B16E) : Prop :=
  (u.port.st ≠ .done → u.port.obuf.length = 2 * u.port.sent)
  ∧ (u.port.st = .done → u.port.out.length = 2 * u.port.sent)

/-- The length bound of B16D (44 R230): `floor(L / 2)` bytes. -/
abbrev B16D.LengthsHold (u : B16D) : Prop :=
  (u.port.st ≠ .done → 2 * u.port.obuf.length + (if u.haveHi = true then 1 else 0) ≤ u.port.sent)
  ∧ (u.port.st = .done → u.port.out.length ≤ u.port.sent / 2)

/-- The length laws of 44_validation_and_laws.md R230 hold of every unit that has been reset. -/
abbrev State.LengthsHold (s : State) : Prop :=
  (s.b64e.port.wasReset = true → s.b64e.LengthsHold)
  ∧ (s.b64d.port.wasReset = true → s.b64d.LengthsHold)
  ∧ (s.b32e.port.wasReset = true → s.b32e.LengthsHold)
  ∧ (s.b32d.port.wasReset = true → s.b32d.LengthsHold)
  ∧ (s.b16e.port.wasReset = true → s.b16e.LengthsHold)
  ∧ (s.b16d.port.wasReset = true → s.b16d.LengthsHold)

/-- `upper(c)`: only the ASCII letters change (44_validation_and_laws.md R232). -/
def upperAscii (c : Byte) : Byte := if 0x61 ≤ c.toNat ∧ c.toNat ≤ 0x7A then c - 0x20 else c

/-- `lower(c)` (44 R232). -/
def lowerAscii (c : Byte) : Byte := if 0x41 ≤ c.toNat ∧ c.toNat ≤ 0x5A then c + 0x20 else c

end Sys2Proof.Machine
end

