-- ==== Sys2Proof/Certificates/Slice0/Obligations.lean ====
section
/-! DEFINITION. The statements about the block, from the numbered rules of spec/. They are about events (`present`), operations
(`exec`), host reads and steps over every state; where a statement rests on a choice of the model, its docstring says so. -/

open Sys2Proof Sys2Proof.Machine

/-- 10_state.md R50, both columns, for every unit from every state: what `RESET` and `START(cfg)` leave in every register; no event
changes a ROM entry; and the value cells are never read before they are written: two states that agree but for unwritten cells
accept the same events and still agree after them. -/
def Obligations.ResetAndStartLeaveTheListedValues : Prop :=
  ∀ (u : UnitId) (s : State),
    (∃ t p, present u .reset s = .next t ∧ t.file u = zeroFile u p ∧ t.port u = p
      ∧ p.st = .idle ∧ p.ok = false ∧ p.out = [] ∧ p.outLen = 0 ∧ p.cfg = 0 ∧ p.obuf = [])
    ∧ (∀ cfg, startReserved u cfg = none → s.canStart u →
      ∃ t p, present u (.start cfg) s = .next t ∧ t.file u = zeroFile u p ∧ t.port u = p
        ∧ p.st = .run ∧ p.ok = false ∧ p.out = [] ∧ p.outLen = 0 ∧ p.cfg = cfg ∧ p.obuf = [])
    ∧ (∀ e t, present u e s = .next t → ∀ sp a, sp.isRom = true → memRead t sp a = memRead s sp a)
    ∧ ∀ e s' t, s'.params = s.params → s.agreeOnWritten u s' → present u e s = .next t →
      ∃ t', present u e s' = .next t' ∧ t.agreeOnWritten u t'

/-- 70_reset_and_hazards.md R280: `RESET` of one unit is accepted in every state, leaves it as State.reset has it (log entry 5:
State.reset stands after six RESETs) and touches nothing else. -/
def Obligations.ResetOfOneUnitTouchesNoOther : Prop :=
  ∀ (u : UnitId) (s : State), ∃ t, present u .reset s = .next t ∧ t.file u = State.reset.file u
    ∧ (∀ w, w ≠ u → t.file w = s.file w) ∧ t.params = s.params ∧ t.script = s.script ∧ t.lastRead = s.lastRead
    ∧ t.undefinedReads = s.undefinedReads

/-- 92_eei_decisions.md D17, 93 U10: before its first `RESET` a unit refuses every other event, so every operation, whatever its
registers hold; a working register is as unreadable then as ever (93 U13). A read of the others is no event: see
ReadBeforeResetGivesAnUndefinedValue. -/
def Obligations.BeforeItsResetAUnitRefusesAll : Prop :=
  ∀ (u : UnitId) (s : State), (s.port u).wasReset = false →
    (∀ e, e ≠ .reset → ∃ r, present u e s = .refused r)
    ∧ (∀ i : Instr, i.unit = u → exec i s = .refused (.neverReset u))
    ∧ ∀ w, readTarget u (.working w) s = .refused (.notReadable u w)

/-- The protocol table, 10_state.md R23: which event a unit that was reset accepts in which `ST`, with the reserved `cfg` and the
`MAX_LEN` clauses; what `ST` is afterwards; and that everything else is refused, not a no-op. -/
def Obligations.ProtocolTableHolds : Prop :=
  ∀ (u : UnitId) (e : Event) (s : State), (s.port u).wasReset = true →
    ((∃ t, present u e s = .next t) ↔
      match e with
      | .reset => True
      | .start cfg => startReserved u cfg = none ∧ (s.port u).st ≠ .run
      | .symbol _ => (s.port u).st = .run ∧ s.params.admits ((s.port u).sent + 1) = true
      | .finish => (s.port u).st = .run)
    ∧ (∀ t, present u e s = .next t → (t.port u).st =
        match e with
        | .reset => .idle
        | .start _ => .run
        | .symbol _ => .run
        | .finish => .done)
    ∧ ((¬ ∃ t, present u e s = .next t) → ∃ r, present u e s = .refused r)

/-- 30_encoding.md R121: all fifteen rows of the rule's table, each descriptor written out from it. -/
def Obligations.DescriptorsDecodeAsTheTableSays : Prop :=
  ∀ m : List Byte,
    decode 0b00000 m = .ok (.b64encStdNopad m) ∧ decode 0b00001 m = .ok (.b64encUrlNopad m)
    ∧ decode 0b00010 m = .ok (.b64encStdPad m) ∧ decode 0b00011 m = .ok (.b64encUrlPad m)
    ∧ decode 0b00100 m = .ok (.b64decStd m) ∧ decode 0b00101 m = .ok (.b64decUrl m)
    ∧ decode 0b01000 m = .ok (.b32encStdNopad m) ∧ decode 0b01001 m = .ok (.b32encHexNopad m)
    ∧ decode 0b01010 m = .ok (.b32encStdPad m) ∧ decode 0b01011 m = .ok (.b32encHexPad m)
    ∧ decode 0b01100 m = .ok (.b32decStd m) ∧ decode 0b01101 m = .ok (.b32decHex m)
    ∧ decode 0b10000 m = .ok (.b16encLower m) ∧ decode 0b10010 m = .ok (.b16encUpper m)
    ∧ decode 0b10100 m = .ok (.b16dec m)

/-- 30_encoding.md R124: exactly the listed descriptors are reserved, seventeen of them, and a START (alone or as a line of a
program) with one is refused in every state. -/
def Obligations.ReservedDescriptorsAreRefused : Prop :=
  ((List.range 32).filter fun n => (decodeTableWord 8 n).isNone).length = 17
  ∧ ∀ (opd : Opd) (m : List Byte) (s : State),
    ((∃ why, decode opd m = .error why) ↔
      ((opd.extractLsb' 2 3).toNat = 6 ∨ (opd.extractLsb' 2 3).toNat = 7)
      ∨ (((opd.extractLsb' 2 3).toNat = 1 ∨ (opd.extractLsb' 2 3).toNat = 3) ∧ opd.getLsbD 1 = true)
      ∨ ((opd.extractLsb' 2 3).toNat = 4 ∧ opd.getLsbD 0 = true)
      ∨ ((opd.extractLsb' 2 3).toNat = 5 ∧ (opd.getLsbD 0 = true ∨ opd.getLsbD 1 = true)))
    ∧ ((∃ why, decode opd m = .error why) →
      ∃ why, act (.start opd) s = .refused (.reservedDescriptor why)
        ∧ act (.line opd m) s = .refused (.reservedDescriptor why))

/-- 30_encoding.md R120, R121: decoding the encoding of any operation gives it back with its message, and whatever decodes to an
operation is that operation's encoding, so no two descriptors share one. -/
def Obligations.DecodeAndEncodeAgree : Prop :=
  (∀ i : Instr, decode (encode i).1 (encode i).2 = .ok i)
  ∧ ∀ (opd : Opd) (m : List Byte) (i : Instr), decode opd m = .ok i → encode i = (opd, m)

/-- What a step is (10_state.md R20, R22; log entries 1, 3, 13): the host's next action; a line whose descriptor decodes runs
exactly the decoded operation; a table word placed by withFetchWord runs at the very next step. -/
def Obligations.StepRunsTheDecodedOperation : Prop :=
  (∀ (s : State) (opd : Opd) (m : List Byte) (rest : List HostAction) (i : Instr),
    s.script = .line opd m :: rest → decode opd m = .ok i → step s = exec i { s with script := rest })
  ∧ (∀ (s : State) (opd : Opd) (rest : List HostAction) (i : Instr),
    s.script = .start opd :: rest → decode opd [] = .ok i →
      step s = present i.unit (.start i.cfg) { s with script := rest })
  ∧ (∀ (s : State) (u : UnitId) (rest : List HostAction),
    s.script = .reset u :: rest → step s = present u .reset { s with script := rest })
  ∧ (∀ (s : State) (u : UnitId) (x : Byte) (rest : List HostAction),
    s.script = .symbol u x :: rest → step s = present u (.symbol x) { s with script := rest })
  ∧ (∀ (s : State) (u : UnitId) (rest : List HostAction),
    s.script = .finish u :: rest → step s = present u .finish { s with script := rest })
  ∧ (∀ s : State, s.script = [] → step s = .next s)
  ∧ ∀ (s : State) (nbits w : Nat) (i : Instr),
    decodeTableWord nbits w = some i → step (s.withFetchWord nbits w) = exec i s

/-- 10_state.md R24: a line of a program is its transaction, event for event. Running the `n + 2` events as single steps gives,
from every state, the outcome of the one operation: the same next state, or the same refusal (log entry 1). -/
def Obligations.OperationIsItsEventsOneByOne : Prop :=
  ∀ (i : Instr) (s : State) (rest : List HostAction),
    s.script = eventActions i ++ rest →
      Sys2Proof.core.run (i.message.length + 2) s = exec i { s with script := rest }

/-- When an operation completes, for every operation: exactly when its unit was reset and is not in RUN (10_state.md R23) and its
message is no longer than `MAX_LEN` (00_scope.md R9); a longer one is refused, and no operation faults. -/
def Obligations.OperationCompletesExactlyWhenAccepted : Prop :=
  ∀ (i : Instr) (s : State),
    ((∃ t, exec i s = .next t) ↔ s.canStart i.unit ∧ i.wellFormed s.params = true)
    ∧ (s.canStart i.unit → i.wellFormed s.params = false → exec i s = .refused (.tooLong i.unit))
    ∧ ∀ f, exec i s ≠ .fault f

/-- B64E: the event rules 41_base64.md R141 and R142 register by register, and the four operations as whole messages. -/
def Obligations.B64EncoderEventsAndOperations : Prop :=
  (∀ (s : State) (x : Byte), s.running .b64e → s.params.admits (s.b64e.port.sent + 1) = true →
    ∃ t, present .b64e (.symbol x) s = .next t ∧ t.b64e.port.cfg = s.b64e.port.cfg
      ∧ (s.b64e.cnt.toNat < 2 → t.b64e.b.toList = s.b64e.b.toList.set s.b64e.cnt.toNat x
          ∧ t.b64e.cnt.toNat = s.b64e.cnt.toNat + 1 ∧ t.b64e.port.obuf = s.b64e.port.obuf)
      ∧ (s.b64e.cnt.toNat = 2 → t.b64e.b = s.b64e.b ∧ t.b64e.cnt = 0
          ∧ t.b64e.port.obuf = s.b64e.port.obuf
            ++ (pack64 s.b64e.b[0] s.b64e.b[1] x).map (e64 (variantOf s.b64e.port.cfg))))
  ∧ (∀ s : State, s.running .b64e →
    ∃ t tail, present .b64e .finish s = .next t ∧ t.b64e.port.ok = true ∧ t.b64e.port.st = .done
      ∧ t.b64e.port.obuf = s.b64e.port.obuf ++ tail ∧ t.b64e.port.out = t.b64e.port.obuf
      ∧ t.b64e.port.outLen = t.b64e.port.obuf.length
      ∧ (s.b64e.cnt.toNat = 0 → tail = [])
      ∧ (s.b64e.cnt.toNat = 1 → tail =
          ((pack64 s.b64e.b[0] 0 0).take 2).map (e64 (variantOf s.b64e.port.cfg))
            ++ (if flagOf s.b64e.port.cfg = 1 then [0x3D, 0x3D] else []))
      ∧ (s.b64e.cnt.toNat = 2 → tail =
          ((pack64 s.b64e.b[0] s.b64e.b[1] 0).take 3).map (e64 (variantOf s.b64e.port.cfg))
            ++ (if flagOf s.b64e.port.cfg = 1 then [0x3D] else [])))
  ∧ ∀ (bytes : List Byte) (s : State), s.canStart .b64e → s.params.admits bytes.length = true →
    (∃ t, exec (.b64encStdNopad bytes) s = .next t ∧ t.b64e.port.ok = true ∧ t.b64e.port.st = .done
      ∧ t.b64e.port.out = enc64 0 0 bytes)
    ∧ (∃ t, exec (.b64encStdPad bytes) s = .next t ∧ t.b64e.port.ok = true ∧ t.b64e.port.st = .done
      ∧ t.b64e.port.out = enc64 0 1 bytes)
    ∧ (∃ t, exec (.b64encUrlNopad bytes) s = .next t ∧ t.b64e.port.ok = true ∧ t.b64e.port.st = .done
      ∧ t.b64e.port.out = enc64 1 0 bytes)
    ∧ (∃ t, exec (.b64encUrlPad bytes) s = .next t ∧ t.b64e.port.ok = true ∧ t.b64e.port.st = .done
      ∧ t.b64e.port.out = enc64 1 1 bytes)

/-- B32E: the event rules 42_base32.md R171 and R172 register by register, and the four operations as whole messages. -/
def Obligations.B32EncoderEventsAndOperations : Prop :=
  (∀ (s : State) (x : Byte), s.running .b32e → s.params.admits (s.b32e.port.sent + 1) = true →
    ∃ t, present .b32e (.symbol x) s = .next t ∧ t.b32e.port.cfg = s.b32e.port.cfg
      ∧ (s.b32e.cnt.toNat < 4 → t.b32e.b.toList = s.b32e.b.toList.set s.b32e.cnt.toNat x
          ∧ t.b32e.cnt.toNat = s.b32e.cnt.toNat + 1 ∧ t.b32e.port.obuf = s.b32e.port.obuf)
      ∧ (s.b32e.cnt.toNat = 4 → t.b32e.b = s.b32e.b ∧ t.b32e.cnt = 0
          ∧ t.b32e.port.obuf = s.b32e.port.obuf
            ++ (pack32 s.b32e.b[0] s.b32e.b[1] s.b32e.b[2] s.b32e.b[3] x).map (e32 (variantOf s.b32e.port.cfg))))
  ∧ (∀ s : State, s.running .b32e → s.b32e.cnt.toNat ≤ 4 →
    ∃ t tail, present .b32e .finish s = .next t ∧ t.b32e.port.ok = true ∧ t.b32e.port.st = .done
      ∧ t.b32e.port.obuf = s.b32e.port.obuf ++ tail ∧ t.b32e.port.out = t.b32e.port.obuf
      ∧ t.b32e.port.outLen = t.b32e.port.obuf.length
      ∧ tail = (if s.b32e.cnt.toNat = 0 then [] else
          (((match s.b32e.b.toList.take s.b32e.cnt.toNat ++ List.replicate (5 - s.b32e.cnt.toNat) 0 with
            | [b1, b2, b3, b4, b5] => pack32 b1 b2 b3 b4 b5
            | _ => []).take (dataChars32 s.b32e.cnt.toNat)).map (e32 (variantOf s.b32e.port.cfg)))
          ++ (if flagOf s.b32e.port.cfg = 1 then List.replicate (8 - dataChars32 s.b32e.cnt.toNat) 0x3D else [])))
  ∧ ∀ (bytes : List Byte) (s : State), s.canStart .b32e → s.params.admits bytes.length = true →
    (∃ t, exec (.b32encStdNopad bytes) s = .next t ∧ t.b32e.port.ok = true ∧ t.b32e.port.st = .done
      ∧ t.b32e.port.out = enc32 0 0 bytes)
    ∧ (∃ t, exec (.b32encStdPad bytes) s = .next t ∧ t.b32e.port.ok = true ∧ t.b32e.port.st = .done
      ∧ t.b32e.port.out = enc32 0 1 bytes)
    ∧ (∃ t, exec (.b32encHexNopad bytes) s = .next t ∧ t.b32e.port.ok = true ∧ t.b32e.port.st = .done
      ∧ t.b32e.port.out = enc32 1 0 bytes)
    ∧ (∃ t, exec (.b32encHexPad bytes) s = .next t ∧ t.b32e.port.ok = true ∧ t.b32e.port.st = .done
      ∧ t.b32e.port.out = enc32 1 1 bytes)

/-- B16E: the event rules of 43_base16.md R201, high nibble first, and the two operations as whole messages. -/
def Obligations.B16EncoderEventsAndOperations : Prop :=
  (∀ (s : State) (x : Byte), s.running .b16e → s.params.admits (s.b16e.port.sent + 1) = true →
    ∃ t, present .b16e (.symbol x) s = .next t
      ∧ t.b16e.port = { s.b16e.port with
          obuf := s.b16e.port.obuf ++ [e16 (flagOf s.b16e.port.cfg) (x.extractLsb' 4 4),
            e16 (flagOf s.b16e.port.cfg) (x.extractLsb' 0 4)]
          sent := t.b16e.port.sent })
  ∧ (∀ s : State, s.running .b16e →
    ∃ t, present .b16e .finish s = .next t ∧ t.b16e.port.out = s.b16e.port.obuf
      ∧ t.b16e.port.outLen = s.b16e.port.obuf.length ∧ t.b16e.port.ok = true ∧ t.b16e.port.st = .done)
  ∧ ∀ (bytes : List Byte) (s : State), s.canStart .b16e → s.params.admits bytes.length = true →
    (∃ t, exec (.b16encLower bytes) s = .next t ∧ t.b16e.port.ok = true ∧ t.b16e.port.st = .done
      ∧ t.b16e.port.out = enc16 0 bytes)
    ∧ (∃ t, exec (.b16encUpper bytes) s = .next t ∧ t.b16e.port.ok = true ∧ t.b16e.port.st = .done
      ∧ t.b16e.port.out = enc16 1 bytes)

/-- B64D, every arm of `SYMBOL` (41_base64.md R151, in the rule's order) and of `END` (R153), register by register; the labels of
`DecodeFail` are no state (00_scope.md R15). Nothing is said of the host's index (log entry 6), nor of `OBUF` after END. -/
def Obligations.B64DecoderEvents : Prop :=
  (∀ (s : State) (x : Byte), s.running .b64d → s.params.admits (s.b64d.port.sent + 1) = true →
    ∃ t,
      let u := { s.b64d with port.sent := t.b64d.port.sent }
      let d := d64 (variantOf u.port.cfg) x
      present .b64d (.symbol x) s = .next t
      ∧ (u.fail = true → t.b64d = u)
      ∧ (u.fail = false → isWs x = true →
          (u.cnt.toNat = 0 ∧ u.padcnt.toNat = 0 → t.b64d = u)
          ∧ (¬ (u.cnt.toNat = 0 ∧ u.padcnt.toNat = 0) → t.b64d = { u with fail := true }))
      ∧ (u.fail = false → isWs x = false → u.closed = true → t.b64d = { u with fail := true })
      ∧ (u.fail = false → u.closed = false → x = 0x3D →
          (u.cnt.toNat < 2 → t.b64d = { u with fail := true })
          ∧ (2 ≤ u.cnt.toNat → u.cnt.toNat + u.padcnt.toNat + 1 = 4 → t.b64d = { u with
              port.obuf := u.port.obuf ++ unpack64 u.v[0] u.v[1] u.v[2] u.v[3] u.cnt.toNat
              cnt := 0
              padcnt := 0
              closed := true })
          ∧ (2 ≤ u.cnt.toNat → u.cnt.toNat + u.padcnt.toNat + 1 ≠ 4 → t.b64d = { u with padcnt := 1 }))
      ∧ (u.fail = false → u.closed = false → isWs x = false → x ≠ 0x3D →
          (d = 255 → t.b64d = { u with fail := true })
          ∧ (d ≠ 255 → 0 < u.padcnt.toNat → t.b64d = { u with fail := true })
          ∧ (d ≠ 255 → u.padcnt.toNat = 0 → u.cnt.toNat = 3 → t.b64d = { u with
              port.obuf := u.port.obuf ++ unpack64 u.v[0] u.v[1] u.v[2] (d.setWidth 6) 4
              cnt := 0 })
          ∧ (d ≠ 255 → u.padcnt.toNat = 0 → u.cnt.toNat < 3 →
              t.b64d = { u with v := t.b64d.v, cnt := t.b64d.cnt }
              ∧ t.b64d.v.toList = u.v.toList.set u.cnt.toNat (d.setWidth 6) ∧ t.b64d.cnt.toNat = u.cnt.toNat + 1)))
  ∧ ∀ s : State, s.running .b64d →
    let u := s.b64d
    ∃ t,
      let ends := fun (ok : Bool) (bytes : List Byte) =>
        ({ u with port := { u.port with out := bytes, ok := ok, st := .done, obuf := t.b64d.port.obuf } } : B64D)
      present .b64d .finish s = .next t ∧ t.b64d.port.outLen = t.b64d.port.out.length
      ∧ (u.fail = true → t.b64d = ends false [])
      ∧ (u.fail = false → 0 < u.padcnt.toNat → t.b64d = ends false [])
      ∧ (u.fail = false → u.padcnt.toNat = 0 → u.cnt.toNat = 0 → t.b64d = ends true u.port.obuf)
      ∧ (u.fail = false → u.padcnt.toNat = 0 → u.cnt.toNat = 1 → t.b64d = ends false [])
      ∧ (u.fail = false → u.padcnt.toNat = 0 → u.cnt.toNat = 2 ∨ u.cnt.toNat = 3 →
          (variantOf u.port.cfg = 0 → t.b64d = ends false [])
          ∧ (variantOf u.port.cfg = 1 → t.b64d = ends true
              (u.port.obuf ++ unpack64 u.v[0] u.v[1] u.v[2] u.v[3] u.cnt.toNat)))

/-- B32D, every arm of `SYMBOL` (42_base32.md R181, in the rule's order) and of `END` (R183), register by register, with
`B32_ODD_COUNT` at the decided value `fail` the rules are written for. Nothing is said of the host's index (log entry 6). -/
def Obligations.B32DecoderEvents : Prop :=
  (∀ (s : State) (x : Byte), s.params.b32OddCount = .fail → s.running .b32d →
    s.params.admits (s.b32d.port.sent + 1) = true →
    ∃ t,
      let u := { s.b32d with port.sent := t.b32d.port.sent }
      let d := d32 (variantOf u.port.cfg) x
      present .b32d (.symbol x) s = .next t
      ∧ (u.fail = true → t.b32d = u)
      ∧ (u.fail = false → isWs x = true →
          (u.cnt.toNat = 0 ∧ u.padcnt.toNat = 0 → t.b32d = u)
          ∧ (¬ (u.cnt.toNat = 0 ∧ u.padcnt.toNat = 0) → t.b32d = { u with fail := true }))
      ∧ (u.fail = false → isWs x = false → u.closed = true → t.b32d = { u with fail := true })
      ∧ (u.fail = false → u.closed = false → x = 0x3D →
          (u.cnt.toNat < 2 ∨ u.cnt.toNat = 3 ∨ u.cnt.toNat = 6 → t.b32d = { u with fail := true })
          ∧ (u.cnt.toNat = 2 ∨ u.cnt.toNat = 4 ∨ u.cnt.toNat = 5 ∨ u.cnt.toNat = 7 →
            (u.cnt.toNat + u.padcnt.toNat + 1 = 8 → t.b32d = { u with
              port.obuf := u.port.obuf
                ++ unpack32 u.c[0] u.c[1] u.c[2] u.c[3] u.c[4] u.c[5] u.c[6] u.c[7] u.cnt.toNat
              cnt := 0
              padcnt := 0
              closed := true })
            ∧ (u.cnt.toNat + u.padcnt.toNat + 1 ≠ 8 → t.b32d = { u with padcnt := u.padcnt + 1 })))
      ∧ (u.fail = false → u.closed = false → isWs x = false → x ≠ 0x3D →
          (d = 255 → t.b32d = { u with fail := true })
          ∧ (d ≠ 255 → 0 < u.padcnt.toNat → t.b32d = { u with fail := true })
          ∧ (d ≠ 255 → u.padcnt.toNat = 0 → u.cnt.toNat = 7 → t.b32d = { u with
              port.obuf := u.port.obuf
                ++ unpack32 u.c[0] u.c[1] u.c[2] u.c[3] u.c[4] u.c[5] u.c[6] (d.setWidth 5) 8
              cnt := 0 })
          ∧ (d ≠ 255 → u.padcnt.toNat = 0 → u.cnt.toNat < 7 →
              t.b32d = { u with c := t.b32d.c, cnt := t.b32d.cnt }
              ∧ t.b32d.c.toList = u.c.toList.set u.cnt.toNat (d.setWidth 5) ∧ t.b32d.cnt.toNat = u.cnt.toNat + 1)))
  ∧ ∀ s : State, s.params.b32OddCount = .fail → s.running .b32d →
    let u := s.b32d
    ∃ t,
      let ends := fun (ok : Bool) (bytes : List Byte) =>
        ({ u with port := { u.port with out := bytes, ok := ok, st := .done, obuf := t.b32d.port.obuf } } : B32D)
      present .b32d .finish s = .next t ∧ t.b32d.port.outLen = t.b32d.port.out.length
      ∧ (u.fail = true → t.b32d = ends false [])
      ∧ (u.fail = false → 0 < u.padcnt.toNat → t.b32d = ends false [])
      ∧ (u.fail = false → u.padcnt.toNat = 0 → u.cnt.toNat = 0 → t.b32d = ends true u.port.obuf)
      ∧ (u.fail = false → u.padcnt.toNat = 0 → u.cnt.toNat = 1 ∨ u.cnt.toNat = 3 ∨ u.cnt.toNat = 6 → t.b32d = ends false [])
      ∧ (u.fail = false → u.padcnt.toNat = 0 → u.cnt.toNat = 2 ∨ u.cnt.toNat = 4 ∨ u.cnt.toNat = 5 ∨ u.cnt.toNat = 7 →
          t.b32d = ends true (u.port.obuf
            ++ unpack32 u.c[0] u.c[1] u.c[2] u.c[3] u.c[4] u.c[5] u.c[6] u.c[7] u.cnt.toNat))

/-- B16D, every arm of `SYMBOL` (43_base16.md R205, in the rule's order) and of `END` (R206), register by register; `x` and `X` are
in no alphabet. Nothing is said of
the host's index (log entry 6). -/
def Obligations.B16DecoderEvents : Prop :=
  (∀ (s : State) (x : Byte), s.running .b16d → s.params.admits (s.b16d.port.sent + 1) = true →
    let endsPrefix := s.b16d.pos.toNat = 1 ∧ s.b16d.first0 = true ∧ (x = 0x78 ∨ x = 0x58)
    ∃ t pos first0, present .b16d (.symbol x) s = .next t
      ∧ pos.toNat = min (s.b16d.pos.toNat + 1) 2
      ∧ (s.b16d.pos.toNat = 0 → (first0 = true ↔ x = 0x30)) ∧ (s.b16d.pos.toNat ≠ 0 → first0 = s.b16d.first0)
      ∧ let u := { s.b16d with port.sent := t.b16d.port.sent, pos := pos, first0 := first0 }
        (u.fail = true → t.b16d = u)
        ∧ (u.fail = false → endsPrefix → t.b16d = { u with haveHi := false, hi := 0 })
        ∧ (u.fail = false → ¬ endsPrefix → isWs x = true → t.b16d = u)
        ∧ (u.fail = false → ¬ endsPrefix → isWs x = false →
            (d16 x = 255 → t.b16d = { u with fail := true })
            ∧ (d16 x ≠ 255 → u.haveHi = true → t.b16d = { u with
                port.obuf := u.port.obuf ++ [BitVec.ofNat 8 ((u.hi.toNat <<< 4) ||| (d16 x).toNat)]
                haveHi := false })
            ∧ (d16 x ≠ 255 → u.haveHi = false → t.b16d = { u with hi := (d16 x).setWidth 4, haveHi := true })))
  ∧ d16 0x78 = 255 ∧ d16 0x58 = 255
  ∧ ∀ s : State, s.running .b16d →
    let u := s.b16d
    ∃ t, present .b16d .finish s = .next t ∧ t.b16d.port.outLen = t.b16d.port.out.length
      ∧ (u.fail = true ∨ u.haveHi = true →
          t.b16d = { u with port := { u.port with out := [], ok := false, st := .done, obuf := t.b16d.port.obuf } })
      ∧ (u.fail = false → u.haveHi = false →
          t.b16d = { u with port := { u.port with out := u.port.obuf, ok := true, st := .done, obuf := t.b16d.port.obuf } })

/-- B64D computes `dec64` (41_base64.md R154 to R156; 44_validation_and_laws.md R236): the decode succeeds with `bytes` exactly
when the text has the rule's decomposition, and a failure leaves no byte in `OUT`. -/
def Obligations.B64DecodersGiveDec64 : Prop :=
  ∀ (text : List Byte) (s : State), s.canStart .b64d → s.params.admits text.length = true →
    (∃ t, exec (.b64decStd text) s = .next t ∧ t.b64d.port.st = .done
      ∧ (∀ bytes, (t.b64d.port.ok = true ∧ t.b64d.port.out = bytes) ↔ DecodesTo64 0 text bytes)
      ∧ (t.b64d.port.ok = false → t.b64d.port.out = []))
    ∧ (∃ t, exec (.b64decUrl text) s = .next t ∧ t.b64d.port.st = .done
      ∧ (∀ bytes, (t.b64d.port.ok = true ∧ t.b64d.port.out = bytes) ↔ DecodesTo64 1 text bytes)
      ∧ (t.b64d.port.ok = false → t.b64d.port.out = []))

/-- B32D computes `dec32` (42_base32.md R184 to R186; 44 R236), for either value of `B32_ODD_COUNT` (92 D14; `.fail` is the
decided one and gives the rules' own words). -/
def Obligations.B32DecodersGiveDec32 : Prop :=
  ∀ (text : List Byte) (s : State), s.canStart .b32d → s.params.admits text.length = true →
    (∃ t, exec (.b32decStd text) s = .next t ∧ t.b32d.port.st = .done
      ∧ (∀ bytes, (t.b32d.port.ok = true ∧ t.b32d.port.out = bytes) ↔ DecodesTo32 s.params.b32OddCount 0 text bytes)
      ∧ (t.b32d.port.ok = false → t.b32d.port.out = []))
    ∧ (∃ t, exec (.b32decHex text) s = .next t ∧ t.b32d.port.st = .done
      ∧ (∀ bytes, (t.b32d.port.ok = true ∧ t.b32d.port.out = bytes) ↔ DecodesTo32 s.params.b32OddCount 1 text bytes)
      ∧ (t.b32d.port.ok = false → t.b32d.port.out = []))

/-- B16D computes `dec16` (43_base16.md R207, R208; 44 R236). -/
def Obligations.B16DecoderGivesDec16 : Prop :=
  ∀ (text : List Byte) (s : State), s.canStart .b16d → s.params.admits text.length = true →
    ∃ t, exec (.b16dec text) s = .next t ∧ t.b16d.port.st = .done
      ∧ (∀ bytes, dec16 text = some bytes → t.b16d.port.ok = true ∧ t.b16d.port.out = bytes)
      ∧ (dec16 text = none → t.b16d.port.ok = false ∧ t.b16d.port.out = [])

/-- The frame of every operation (10_state.md R21, R34, R40): the other five units, the parameters, the host's script and last
read are unchanged; of its own unit `CFG` is the operation's, the unit is in DONE and its `sent`, the host's index of R30 (a) kept as log
entry 6 says (the model's choice), is the message's length; and every byte of every space but the unit's own `OBUF` and `OUT` reads
as before. -/
def Obligations.OperationTouchesOnlyItsUnit : Prop :=
  ∀ (i : Instr) (s t : State), exec i s = .next t →
    (∀ w, w ≠ i.unit → t.file w = s.file w)
    ∧ t.params = s.params ∧ t.script = s.script ∧ t.lastRead = s.lastRead ∧ t.undefinedReads = s.undefinedReads
    ∧ (t.port i.unit).wasReset = true ∧ (t.port i.unit).st = .done ∧ (t.port i.unit).cfg = i.cfg
    ∧ (t.port i.unit).sent = i.message.length
    ∧ ∀ sp a, sp ≠ .obuf i.unit → sp ≠ .out i.unit → memRead t sp a = memRead s sp a

/-- The frame of a `SYMBOL` (10_state.md R21, R34, R36, R42; 20_memory.md R83): nothing outside its unit changes, `ST`, `OK`,
`CFG` and `OUT` stay, `OBUF` only grows and by as many bytes as R83 says, and every other space reads as before. -/
def Obligations.SymbolTouchesOnlyItsUnitAndAppends : Prop :=
  ∀ (u : UnitId) (x : Byte) (s t : State), present u (.symbol x) s = .next t →
    (∀ w, w ≠ u → t.file w = s.file w)
    ∧ t.params = s.params ∧ t.script = s.script ∧ t.lastRead = s.lastRead ∧ t.undefinedReads = s.undefinedReads
    ∧ (t.port u).st = (s.port u).st ∧ (t.port u).ok = (s.port u).ok ∧ (t.port u).cfg = (s.port u).cfg
    ∧ (t.port u).out = (s.port u).out
    ∧ (∃ ys, (t.port u).obuf = (s.port u).obuf ++ ys ∧
        match u with
        | .b64e => ys.length = 0 ∨ ys.length = 4
        | .b64d => ys.length ≤ 3
        | .b32e => ys.length = 0 ∨ ys.length = 8
        | .b32d => ys.length ≤ 5
        | .b16e => ys.length = 2
        | .b16d => ys.length ≤ 1)
    ∧ ∀ sp a, sp ≠ .obuf u → memRead t sp a = memRead s sp a

/-- The frame of an `END` (10_state.md R21; 95_test_vectors.md section 4: "working registers keep their last values through
END"): nothing outside its unit changes, and of the unit only `OBUF`, `OUT`, `OK` and `ST`. -/
def Obligations.EndKeepsTheWorkingRegisters : Prop :=
  ∀ (u : UnitId) (s t : State), present u .finish s = .next t →
    (∀ w, w ≠ u → t.file w = s.file w)
    ∧ t.params = s.params ∧ t.script = s.script ∧ t.lastRead = s.lastRead ∧ t.undefinedReads = s.undefinedReads
    ∧ (t.port u).cfg = (s.port u).cfg ∧ (t.port u).wasReset = (s.port u).wasReset ∧ (t.port u).st = .done
    ∧ t.b64e.b = s.b64e.b ∧ t.b64e.cnt = s.b64e.cnt
    ∧ t.b64d.v = s.b64d.v ∧ t.b64d.cnt = s.b64d.cnt ∧ t.b64d.padcnt = s.b64d.padcnt
    ∧ t.b64d.closed = s.b64d.closed ∧ t.b64d.fail = s.b64d.fail
    ∧ t.b32e.b = s.b32e.b ∧ t.b32e.cnt = s.b32e.cnt
    ∧ t.b32d.c = s.b32d.c ∧ t.b32d.cnt = s.b32d.cnt ∧ t.b32d.padcnt = s.b32d.padcnt
    ∧ t.b32d.closed = s.b32d.closed ∧ t.b32d.fail = s.b32d.fail
    ∧ t.b16d.pos = s.b16d.pos ∧ t.b16d.first0 = s.b16d.first0 ∧ t.b16d.hi = s.b16d.hi
    ∧ t.b16d.haveHi = s.b16d.haveHi ∧ t.b16d.fail = s.b16d.fail

/-- Purity (44_validation_and_laws.md R240; 10_state.md R24, R45): what a transaction leaves in its unit depends on the operation,
its message and the block's parameters alone, not on what any unit held before. -/
def Obligations.SameMessageSameResult : Prop :=
  ∀ (i : Instr) (s s' t t' : State), s.params = s'.params → exec i s = .next t → exec i s' = .next t' →
    t.file i.unit = t'.file i.unit

/-- Independence (10_state.md R21; 20_memory.md R88 (b)): events of two different units give the same state in either order. -/
def Obligations.EventsOfDifferentUnitsCommute : Prop :=
  ∀ (u w : UnitId) (e f : Event) (s s1 t : State), u ≠ w →
    present u e s = .next s1 → present w f s1 = .next t →
      ∃ s2, present w f s = .next s2 ∧ present u e s2 = .next t

/-- 60_exceptions.md R252, the list of every place a failure is raised, complete for the three decoders at `SYMBOL` (a unit that
has not failed yet fails exactly on a listed condition) and at `END`; `B32_ODD_COUNT` at its decided value `fail`. -/
def Obligations.FailureListIsComplete : Prop :=
  (∀ (x : Byte) (s t : State), s.b64d.fail = false → present .b64d (.symbol x) s = .next t →
    (t.b64d.fail = true ↔
      (isWs x = true ∧ (0 < s.b64d.cnt.toNat ∨ 0 < s.b64d.padcnt.toNat))
      ∨ (isWs x = false ∧ s.b64d.closed = true)
      ∨ (x = 0x3D ∧ s.b64d.cnt.toNat < 2)
      ∨ (isWs x = false ∧ x ≠ 0x3D ∧ d64 (variantOf s.b64d.port.cfg) x = 255)
      ∨ (d64 (variantOf s.b64d.port.cfg) x ≠ 255 ∧ 0 < s.b64d.padcnt.toNat)))
  ∧ (∀ s t : State, present .b64d .finish s = .next t →
    (t.b64d.port.ok = false ↔ s.b64d.fail = true ∨ 0 < s.b64d.padcnt.toNat
      ∨ (variantOf s.b64d.port.cfg = 0 ∧ 0 < s.b64d.cnt.toNat)
      ∨ (variantOf s.b64d.port.cfg = 1 ∧ s.b64d.cnt.toNat = 1)))
  ∧ (∀ (x : Byte) (s t : State), s.params.b32OddCount = .fail → s.b32d.fail = false →
    present .b32d (.symbol x) s = .next t →
    (t.b32d.fail = true ↔
      (isWs x = true ∧ (0 < s.b32d.cnt.toNat ∨ 0 < s.b32d.padcnt.toNat))
      ∨ (isWs x = false ∧ s.b32d.closed = true)
      ∨ (x = 0x3D ∧ s.b32d.cnt.toNat < 2)
      ∨ (x = 0x3D ∧ (s.b32d.cnt.toNat = 3 ∨ s.b32d.cnt.toNat = 6))
      ∨ (isWs x = false ∧ x ≠ 0x3D ∧ d32 (variantOf s.b32d.port.cfg) x = 255)
      ∨ (d32 (variantOf s.b32d.port.cfg) x ≠ 255 ∧ 0 < s.b32d.padcnt.toNat)))
  ∧ (∀ s t : State, s.params.b32OddCount = .fail → present .b32d .finish s = .next t →
    (t.b32d.port.ok = false ↔ s.b32d.fail = true ∨ 0 < s.b32d.padcnt.toNat
      ∨ s.b32d.cnt.toNat = 1 ∨ s.b32d.cnt.toNat = 3 ∨ s.b32d.cnt.toNat = 6))
  ∧ (∀ (x : Byte) (s t : State), s.b16d.fail = false → present .b16d (.symbol x) s = .next t →
    (t.b16d.fail = true ↔
      d16 x = 255 ∧ isWs x = false
        ∧ ¬ (s.b16d.pos.toNat = 1 ∧ s.b16d.first0 = true ∧ (x = 0x78 ∨ x = 0x58))))
  ∧ (∀ s t : State, present .b16d .finish s = .next t →
    (t.b16d.port.ok = false ↔ s.b16d.fail = true ∨ s.b16d.haveHi = true))

/-- 60_exceptions.md R255, what a failure does, in full: the failing `SYMBOL` and every later one keep every register but `FAIL`
(and, in B16D, `POS` and `FIRST0`), `ST` stays RUN, and `END` gives `OK = 0`, `OUT = []`, `OUT_LEN = 0`, `ST = DONE`. Beside the unit's
registers `sent`, the host's index of 10_state.md R30 (a), moves on by one: the model's choice, log entry 6. -/
def Obligations.FailureKeepsEverythingAndShowsNothing : Prop :=
  (∀ (x : Byte) (s t : State), present .b64d (.symbol x) s = .next t → t.b64d.fail = true →
    t.b64d = { s.b64d with fail := true, port := { s.b64d.port with sent := s.b64d.port.sent + 1 } }
      ∧ t.b64d.port.st = .run)
  ∧ (∀ (x : Byte) (s t : State), present .b32d (.symbol x) s = .next t → t.b32d.fail = true →
    t.b32d = { s.b32d with fail := true, port := { s.b32d.port with sent := s.b32d.port.sent + 1 } }
      ∧ t.b32d.port.st = .run)
  ∧ (∀ (x : Byte) (s t : State), present .b16d (.symbol x) s = .next t → t.b16d.fail = true →
    t.b16d = { s.b16d with
        fail := true
        pos := t.b16d.pos
        first0 := t.b16d.first0
        port := { s.b16d.port with sent := s.b16d.port.sent + 1 } }
      ∧ t.b16d.pos.toNat = min (s.b16d.pos.toNat + 1) 2
      ∧ t.b16d.first0 = (if s.b16d.pos.toNat = 0 then x == 0x30 else s.b16d.first0)
      ∧ t.b16d.port.st = .run)
  ∧ (∀ s : State, s.running .b64d → s.b64d.fail = true → ∃ t, present .b64d .finish s = .next t
      ∧ t.b64d.port.ok = false ∧ t.b64d.port.out = [] ∧ t.b64d.port.outLen = 0 ∧ t.b64d.port.st = .done)
  ∧ (∀ s : State, s.running .b32d → s.b32d.fail = true → ∃ t, present .b32d .finish s = .next t
      ∧ t.b32d.port.ok = false ∧ t.b32d.port.out = [] ∧ t.b32d.port.outLen = 0 ∧ t.b32d.port.st = .done)
  ∧ (∀ s : State, s.running .b16d → s.b16d.fail = true → ∃ t, present .b16d .finish s = .next t
      ∧ t.b16d.port.ok = false ∧ t.b16d.port.out = [] ∧ t.b16d.port.outLen = 0 ∧ t.b16d.port.st = .done)

/-- 70_reset_and_hazards.md R280, 92 D26: a unit leaves RUN only by its own `END` or `RESET`. -/
def Obligations.OnlyEndOrResetLeavesRun : Prop :=
  ∀ (u : UnitId) (s t : State), step s = .next t → (s.port u).st = .run → (t.port u).st ≠ .run →
    ∃ rest, s.script = .finish u :: rest ∨ s.script = .reset u :: rest

/-- 10_state.md R36, 70_reset_and_hazards.md R286: `OUT` and `OK` of a unit change only by that unit's `END`, `START` or `RESET`,
alone or within a line of a program. -/
def Obligations.ResultChangesOnlyByItsOwnEvents : Prop :=
  ∀ (u : UnitId) (s t : State), step s = .next t →
    ((t.port u).out ≠ (s.port u).out ∨ (t.port u).ok ≠ (s.port u).ok) →
    ∃ rest, s.script = .finish u :: rest ∨ s.script = .reset u :: rest
      ∨ (∃ opd, s.script = .start opd :: rest ∧ ∃ i, decode opd [] = .ok i ∧ i.unit = u)
      ∨ (∃ opd m, s.script = .line opd m :: rest ∧ ∃ i, decode opd m = .ok i ∧ i.unit = u)

/-- 10_state.md R34 to R36, R25; 20_memory.md R83, R88 (c): what a host read of a unit that was reset gives (`STATUS` as bit 2
`OK` and bits 1:0 `ST`), that it changes no unit, and that a working register is not readable; an index of `OUT` that does not
exist faults (log entry 8). -/
def Obligations.HostReadsGiveTheRegisters : Prop :=
  ∀ (u : UnitId) (s : State), (s.port u).wasReset = true →
    (∃ v, readTarget u .status s = .next { s with lastRead := some (.status v) }
      ∧ v.getLsbD 2 = (s.port u).ok
      ∧ (v.extractLsb' 0 2).toNat = match (s.port u).st with
        | .idle => 0
        | .run => 1
        | .done => 2)
    ∧ readTarget u .cfg s = .next { s with lastRead := some (.cfg (s.port u).cfg) }
    ∧ readTarget u .outLen s = .next { s with lastRead := some (.outLen (s.port u).out.length) }
    ∧ readTarget u .out s = .next { s with lastRead := some (.out (s.port u).out) }
    ∧ (∀ a y, (s.port u).out[a]? = some y →
        readTarget u (.outByte a) s = .next { s with lastRead := some (.outByte y) })
    ∧ (∀ a, (s.port u).out.length ≤ a → readTarget u (.outByte a) s = .fault (.noSuchOutByte u a))
    ∧ (∀ w, readTarget u (.working w) s = .refused (.notReadable u w))
    ∧ ∀ r t, readTarget u r s = .next t → ∀ w, t.file w = s.file w

/-- 20_memory.md R60: no step changes a ROM entry; every decode table inverts its encode table and holds the sentinel at every
other character (but the other case of a letter); the two cases of a letter decode alike; every encode table has distinct
entries. -/
def Obligations.AlphabetTablesAreInverse : Prop :=
  (∀ s t : State, step s = .next t → ∀ sp a, sp.isRom = true → memRead t sp a = memRead s sp a)
  ∧ (∀ v i, d64 v (e64 v i) = i.setWidth 8) ∧ (∀ v i, d32 v (e32 v i) = i.setWidth 8)
  ∧ (∀ v i, d16 (e16 v i) = i.setWidth 8)
  ∧ (∀ v i, d32 v (upperAscii (e32 v i)) = d32 v (lowerAscii (e32 v i)))
  ∧ (∀ v i, d16 (upperAscii (e16 v i)) = d16 (lowerAscii (e16 v i)))
  ∧ (∀ v i j, e64 v i = e64 v j → i = j) ∧ (∀ v i j, e32 v i = e32 v j → i = j)
  ∧ (∀ v i j, e16 v i = e16 v j → i = j)
  ∧ (∀ v x, d64 v x ≠ 255 → ∃ i, e64 v i = x)
  ∧ (∀ v x, d32 v x ≠ 255 → ∃ i, e32 v i = upperAscii x)
  ∧ (∀ x, d16 x ≠ 255 → ∃ i, e16 0 i = x ∨ e16 1 i = x)

/-- 20_memory.md R61, R62, R65, R66, R69, R70: in every state the encode ROMs hold the alphabets in digit order, the second table
at `SEL = 1` above the first, and no further entry (R72, the spec's own arrangement). -/
def Obligations.EncodeRomsHoldTheAlphabets : Prop :=
  ∀ s : State,
    (List.range 128).map (memRead s .e64) = (alphabet64 0 ++ alphabet64 1).map some
    ∧ (List.range 64).map (memRead s .e32) = (alphabet32 0 ++ alphabet32 1).map some
    ∧ (List.range 32).map (memRead s .e16) = (alphabet16 0 ++ alphabet16 1).map some
    ∧ ∀ a, (128 ≤ a → memRead s .e64 a = none) ∧ (64 ≤ a → memRead s .e32 a = none) ∧ (32 ≤ a → memRead s .e16 a = none)

/-- 20_memory.md R63, R64 (which the spec derives from R61, R62 and R60), R67, R68, R71: in every state a decode ROM holds, at a
character, its place in the alphabet, at every other byte 255; the Base32 and Base16 tables take both cases of a letter; and how
many entries are not 255. The table of variant 1 stands above that of variant 0 (R72). -/
def Obligations.DecodeRomsHoldThePlaces : Prop :=
  (∀ (s : State) (x : Byte),
    memRead s .d64 x.toNat = some (placeIn (alphabet64 0) x)
    ∧ memRead s .d64 (256 + x.toNat) = some (placeIn (alphabet64 1) x)
    ∧ memRead s .d32 x.toNat = some (placeIn (alphabet32 0) (upperAscii x))
    ∧ memRead s .d32 (256 + x.toNat) = some (placeIn (alphabet32 1) (upperAscii x))
    ∧ memRead s .d16 x.toNat = some (placeIn (alphabet16 1) (upperAscii x)))
  ∧ ∀ s : State, ∀ v : BitVec 1,
    ((List.range 256).filter fun x => memRead s .d64 (256 * v.toNat + x) != some 255).length = 64
    ∧ ((List.range 256).filter fun x => memRead s .d32 (256 * v.toNat + x) != some 255).length = (if v = 0 then 58 else 54)
    ∧ ((List.range 256).filter fun x => memRead s .d16 x != some 255).length = 22

/-- 30_encoding.md R104: the pack formulas on naturals; that they equal the slices of R101, most significant bit first; and that
an encoder takes a missing byte as 0 for packing only, emitting no digit of it alone. -/
def Obligations.Base64PackIsTheSlices : Prop :=
  (∀ (b1 b2 : Byte) (s : State), s.canStart .b64e → s.params.admits 2 = true →
    (∃ t, exec (.b64encStdNopad [b1]) s = .next t ∧ t.b64e.port.out = ((pack64 b1 0 0).take 2).map (e64 0))
    ∧ ∃ t, exec (.b64encStdNopad [b1, b2]) s = .next t ∧ t.b64e.port.out = ((pack64 b1 b2 0).take 3).map (e64 0))
  ∧ ∀ b1 b2 b3 : Byte,
    (pack64 b1 b2 b3).map BitVec.toNat =
      [b1.toNat >>> 2, ((b1.toNat <<< 4) ||| (b2.toNat >>> 4)) &&& 0x3F,
        ((b2.toNat <<< 2) ||| (b3.toNat >>> 6)) &&& 0x3F, b3.toNat &&& 0x3F]
    ∧ pack64 b1 b2 b3 =
      [b1.extractLsb' 2 6, b1.extractLsb' 0 2 ++ b2.extractLsb' 4 4, b2.extractLsb' 0 4 ++ b3.extractLsb' 6 2,
        b3.extractLsb' 0 6]

/-- 30_encoding.md R106: the pack formulas on naturals, that they equal the slices of R102, and that an encoder fills an absent
byte with zeros. -/
def Obligations.Base32PackIsTheSlices : Prop :=
  (∀ (b1 b2 b3 b4 : Byte) (s : State), s.canStart .b32e → s.params.admits 4 = true →
    (∃ t, exec (.b32encStdNopad [b1]) s = .next t ∧ t.b32e.port.out = ((pack32 b1 0 0 0 0).take 2).map (e32 0))
    ∧ (∃ t, exec (.b32encStdNopad [b1, b2]) s = .next t ∧ t.b32e.port.out = ((pack32 b1 b2 0 0 0).take 4).map (e32 0))
    ∧ (∃ t, exec (.b32encStdNopad [b1, b2, b3]) s = .next t ∧ t.b32e.port.out = ((pack32 b1 b2 b3 0 0).take 5).map (e32 0))
    ∧ ∃ t, exec (.b32encStdNopad [b1, b2, b3, b4]) s = .next t
      ∧ t.b32e.port.out = ((pack32 b1 b2 b3 b4 0).take 7).map (e32 0))
  ∧ ∀ b1 b2 b3 b4 b5 : Byte,
    (pack32 b1 b2 b3 b4 b5).map BitVec.toNat =
      [b1.toNat >>> 3, ((b1.toNat <<< 2) ||| (b2.toNat >>> 6)) &&& 0x1F, (b2.toNat >>> 1) &&& 0x1F,
        ((b2.toNat <<< 4) ||| (b3.toNat >>> 4)) &&& 0x1F, ((b3.toNat <<< 1) ||| (b4.toNat >>> 7)) &&& 0x1F,
        (b4.toNat >>> 2) &&& 0x1F, ((b4.toNat <<< 3) ||| (b5.toNat >>> 5)) &&& 0x1F, b5.toNat &&& 0x1F]
    ∧ pack32 b1 b2 b3 b4 b5 =
      [b1.extractLsb' 3 5, b1.extractLsb' 0 3 ++ b2.extractLsb' 6 2, b2.extractLsb' 1 5,
        b2.extractLsb' 0 1 ++ b3.extractLsb' 4 4, b3.extractLsb' 0 4 ++ b4.extractLsb' 7 1, b4.extractLsb' 2 5,
        b4.extractLsb' 0 2 ++ b5.extractLsb' 5 3, b5.extractLsb' 0 5]

/-- 30_encoding.md R105, R109: unpacking is the inverse of packing, for the full group and every short one. -/
def Obligations.UnpackInvertsPack : Prop :=
  (∀ b1 b2 b3 v1 v2 v3 v4, pack64 b1 b2 b3 = [v1, v2, v3, v4] →
    unpack64 v1 v2 v3 v4 4 = [b1, b2, b3]
    ∧ (b3 = 0 → unpack64 v1 v2 v3 v4 3 = [b1, b2])
    ∧ (b2 = 0 → b3 = 0 → unpack64 v1 v2 v3 v4 2 = [b1]))
  ∧ (∀ b1 b2 b3 b4 b5 c1 c2 c3 c4 c5 c6 c7 c8, pack32 b1 b2 b3 b4 b5 = [c1, c2, c3, c4, c5, c6, c7, c8] →
    unpack32 c1 c2 c3 c4 c5 c6 c7 c8 8 = [b1, b2, b3, b4, b5]
    ∧ (b5 = 0 → unpack32 c1 c2 c3 c4 c5 c6 c7 c8 7 = [b1, b2, b3, b4])
    ∧ (b4 = 0 → b5 = 0 → unpack32 c1 c2 c3 c4 c5 c6 c7 c8 5 = [b1, b2, b3])
    ∧ (b3 = 0 → b4 = 0 → b5 = 0 → unpack32 c1 c2 c3 c4 c5 c6 c7 c8 4 = [b1, b2])
    ∧ (b2 = 0 → b3 = 0 → b4 = 0 → b5 = 0 → unpack32 c1 c2 c3 c4 c5 c6 c7 c8 2 = [b1]))

/-- 30_encoding.md R111, 41_base64.md R157: the fill bits of a short group's last character are ignored. After any text `a` that
leaves B64D between groups, the last group `xs`, `x` and the one with `x'` instead, whose digits differ in the fill bits only, give
the same bytes: padded and with any whitespace after it in both variants, unpadded in the URL variant. -/
def Obligations.FillBitsAreIgnored : Prop :=
  ∀ (op : List Byte → Instr) (v : BitVec 1), op = .b64decStd ∧ v = 0 ∨ op = .b64decUrl ∧ v = 1 →
    ∀ (a xs w : List Byte) (x x' fill : Byte) (s : State), s.canStart .b64d →
      s.params.admits (a.length + 4 + w.length) = true → wsRun w = true →
      (xs.length, fill) ∈ [(1, 0x0F), (2, 0x03)] → dataRun64 v (xs ++ [x, x']) = true → d64 v x ||| fill = d64 v x' ||| fill →
      let m := ((s.applyStart .b64d (op []).cfg).applySymbols .b64d a).b64d
      m.cnt = 0 → m.padcnt = 0 → m.closed = false → m.fail = false →
      (∃ t t', exec (op (a ++ xs ++ [x] ++ List.replicate (3 - xs.length) 0x3D ++ w)) s = .next t
        ∧ exec (op (a ++ xs ++ [x'] ++ List.replicate (3 - xs.length) 0x3D ++ w)) s = .next t'
        ∧ t.b64d.port.ok = true ∧ t'.b64d.port.ok = true ∧ t'.b64d.port.out = t.b64d.port.out
        ∧ t.b64d.port.outLen = m.port.obuf.length + xs.length)
      ∧ (v = 1 → ∃ t t', exec (op (a ++ xs ++ [x])) s = .next t ∧ exec (op (a ++ xs ++ [x'])) s = .next t'
        ∧ t.b64d.port.ok = true ∧ t'.b64d.port.ok = true ∧ t'.b64d.port.out = t.b64d.port.out
        ∧ t.b64d.port.outLen = m.port.obuf.length + xs.length)

/-- 30_encoding.md R111, 42_base32.md R187: the same for B32D, whose short last group has 2, 4, 5 or 7 data characters and 2, 4, 1
or 3 fill bits; padded and with any whitespace after it, or unpadded; both variants, both values of `B32_ODD_COUNT`, either case. -/
def Obligations.Base32FillBitsAreIgnored : Prop :=
  ∀ (op : List Byte → Instr) (v : BitVec 1), op = .b32decStd ∧ v = 0 ∨ op = .b32decHex ∧ v = 1 →
    ∀ (a xs w : List Byte) (x x' fill : Byte) (s : State), s.canStart .b32d →
      s.params.admits (a.length + 8 + w.length) = true → wsRun w = true →
      (xs.length, fill) ∈ [(1, 0x03), (3, 0x0F), (4, 0x01), (6, 0x07)] →
      dataRun32 v (xs ++ [x, x']) = true → d32 v x ||| fill = d32 v x' ||| fill →
      let m := ((s.applyStart .b32d (op []).cfg).applySymbols .b32d a).b32d
      m.cnt = 0 → m.padcnt = 0 → m.closed = false → m.fail = false →
      (∃ t t', exec (op (a ++ xs ++ [x] ++ List.replicate (7 - xs.length) 0x3D ++ w)) s = .next t
        ∧ exec (op (a ++ xs ++ [x'] ++ List.replicate (7 - xs.length) 0x3D ++ w)) s = .next t'
        ∧ t.b32d.port.ok = true ∧ t'.b32d.port.ok = true ∧ t'.b32d.port.out = t.b32d.port.out
        ∧ t.b32d.port.outLen = m.port.obuf.length + 5 * (xs.length + 1) / 8)
      ∧ (∃ t t', exec (op (a ++ xs ++ [x])) s = .next t ∧ exec (op (a ++ xs ++ [x'])) s = .next t'
        ∧ t.b32d.port.ok = true ∧ t'.b32d.port.ok = true ∧ t'.b32d.port.out = t.b32d.port.out
        ∧ t.b32d.port.outLen = m.port.obuf.length + 5 * (xs.length + 1) / 8)

/-- 44_validation_and_laws.md R231, R233 for Base64: encode, then decode what was encoded, in one run. The standard decoder gives
the bytes back from padded text always, from unpadded text exactly when the length is a multiple of 3; the URL decoder always. -/
def Obligations.Base64RoundTrip : Prop :=
  ∀ (b : List Byte) (s : State), s.canStart .b64e → s.canStart .b64d →
    s.params.admits (4 * ((b.length + 2) / 3)) = true →
    (∃ t1 t2, exec (.b64encStdPad b) s = .next t1 ∧ exec (.b64decStd t1.b64e.port.out) t1 = .next t2
      ∧ t2.b64d.port.ok = true ∧ t2.b64d.port.out = b)
    ∧ (∃ t1 t2, exec (.b64encUrlPad b) s = .next t1 ∧ exec (.b64decUrl t1.b64e.port.out) t1 = .next t2
      ∧ t2.b64d.port.ok = true ∧ t2.b64d.port.out = b)
    ∧ (∃ t1 t2, exec (.b64encUrlNopad b) s = .next t1 ∧ exec (.b64decUrl t1.b64e.port.out) t1 = .next t2
      ∧ t2.b64d.port.ok = true ∧ t2.b64d.port.out = b)
    ∧ (∃ t1 t2, exec (.b64encStdNopad b) s = .next t1 ∧ exec (.b64decStd t1.b64e.port.out) t1 = .next t2
      ∧ (b.length % 3 = 0 → t2.b64d.port.ok = true ∧ t2.b64d.port.out = b)
      ∧ (b.length % 3 ≠ 0 → t2.b64d.port.ok = false ∧ t2.b64d.port.out = []))

/-- 44_validation_and_laws.md R231, R233 for the Base32 family, both values of `B32_ODD_COUNT`. -/
def Obligations.Base32RoundTrip : Prop :=
  ∀ (b : List Byte) (s : State), s.canStart .b32e → s.canStart .b32d →
    s.params.admits (8 * ((b.length + 4) / 5)) = true →
    (∃ t1 t2, exec (.b32encStdPad b) s = .next t1 ∧ exec (.b32decStd t1.b32e.port.out) t1 = .next t2
      ∧ t2.b32d.port.ok = true ∧ t2.b32d.port.out = b)
    ∧ (∃ t1 t2, exec (.b32encStdNopad b) s = .next t1 ∧ exec (.b32decStd t1.b32e.port.out) t1 = .next t2
      ∧ t2.b32d.port.ok = true ∧ t2.b32d.port.out = b)
    ∧ (∃ t1 t2, exec (.b32encHexPad b) s = .next t1 ∧ exec (.b32decHex t1.b32e.port.out) t1 = .next t2
      ∧ t2.b32d.port.ok = true ∧ t2.b32d.port.out = b)
    ∧ (∃ t1 t2, exec (.b32encHexNopad b) s = .next t1 ∧ exec (.b32decHex t1.b32e.port.out) t1 = .next t2
      ∧ t2.b32d.port.ok = true ∧ t2.b32d.port.out = b)

/-- 44_validation_and_laws.md R231 for Base16. -/
def Obligations.Base16RoundTrip : Prop :=
  ∀ (b : List Byte) (s : State), s.canStart .b16e → s.canStart .b16d → s.params.admits (2 * b.length) = true →
    (∃ t1 t2, exec (.b16encLower b) s = .next t1 ∧ exec (.b16dec t1.b16e.port.out) t1 = .next t2
      ∧ t2.b16d.port.ok = true ∧ t2.b16d.port.out = b)
    ∧ (∃ t1 t2, exec (.b16encUpper b) s = .next t1 ∧ exec (.b16dec t1.b16e.port.out) t1 = .next t2
      ∧ t2.b16d.port.ok = true ∧ t2.b16d.port.out = b)

/-- 44_validation_and_laws.md R241, the shape of encoder output: entries of the encode table, then padding only where `FLAG` is
set and the last group is short, and as much of it as 30_encoding.md R110 says. -/
def Obligations.EncoderOutputShape : Prop :=
  (∀ (i : Instr) (s t : State), i.unit = .b64e → exec i s = .next t →
    ∃ body k, t.b64e.port.out = body ++ List.replicate k 0x3D
      ∧ (∀ c ∈ body, ∃ d, c = e64 (variantOf i.cfg) d)
      ∧ k = if flagOf i.cfg = 1 then (3 - i.message.length % 3) % 3 else 0)
  ∧ (∀ (i : Instr) (s t : State), i.unit = .b32e → exec i s = .next t →
    ∃ body k, t.b32e.port.out = body ++ List.replicate k 0x3D
      ∧ (∀ c ∈ body, ∃ d, c = e32 (variantOf i.cfg) d)
      ∧ k = if flagOf i.cfg = 1 then (8 - dataChars32 (i.message.length % 5)) % 8 else 0)
  ∧ (∀ (i : Instr) (s t : State), i.unit = .b16e → exec i s = .next t →
    ∀ c ∈ t.b16e.port.out, ∃ d, c = e16 (flagOf i.cfg) d)

/-- 44_validation_and_laws.md R232: upper- or lower-casing a text changes nothing for B32D and B16D, whether it decodes or not. -/
def Obligations.DecodingIgnoresCase : Prop :=
  ∀ (op : List Byte → Instr), op = .b32decStd ∨ op = .b32decHex ∨ op = .b16dec →
    ∀ (text : List Byte) (s t : State), exec (op text) s = .next t →
      ∃ t1 t2, exec (op (text.map upperAscii)) s = .next t1 ∧ exec (op (text.map lowerAscii)) s = .next t2
        ∧ (t1.port (op text).unit).ok = (t.port (op text).unit).ok
        ∧ (t1.port (op text).unit).out = (t.port (op text).unit).out
        ∧ (t2.port (op text).unit).ok = (t.port (op text).unit).ok
        ∧ (t2.port (op text).unit).out = (t.port (op text).unit).out

/-- 44_validation_and_laws.md R234: the unpadded Extended-Hex encoding keeps the lexicographic order of byte sequences of equal
length (bytes and character codes compared as unsigned numbers). -/
def Obligations.ExtendedHexKeepsOrder : Prop :=
  ∀ (x y : List Byte) (s : State), x.length = y.length → x < y → s.canStart .b32e → s.params.admits x.length = true →
    ∃ tx ty, exec (.b32encHexNopad x) s = .next tx ∧ exec (.b32encHexNopad y) s = .next ty
      ∧ tx.b32e.port.out < ty.b32e.port.out

/-- 44_validation_and_laws.md R235, 41_base64.md R152, 42_base32.md R182: whitespace inserted where `CNT` and `PADCNT` are 0
changes no result of B64D or B32D, and a whitespace symbol anywhere else makes the decode fail. -/
def Obligations.WhitespaceOnlyBetweenGroups : Prop :=
  (∀ (op : List Byte → Instr), op = .b64decStd ∨ op = .b64decUrl →
    ∀ (a w b : List Byte) (s : State), s.canStart .b64d → s.params.admits (a ++ w ++ b).length = true →
      wsRun w = true → w ≠ [] →
      let m := ((s.applyStart .b64d (op []).cfg).applySymbols .b64d a).b64d
      ∃ t t', exec (op (a ++ b)) s = .next t ∧ exec (op (a ++ w ++ b)) s = .next t'
        ∧ (m.cnt = 0 ∧ m.padcnt = 0 →
          t'.b64d.port.ok = t.b64d.port.ok ∧ t'.b64d.port.out = t.b64d.port.out)
        ∧ (¬ (m.cnt = 0 ∧ m.padcnt = 0) → t'.b64d.port.ok = false ∧ t'.b64d.port.out = []))
  ∧ (∀ (op : List Byte → Instr), op = .b32decStd ∨ op = .b32decHex →
    ∀ (a w b : List Byte) (s : State), s.canStart .b32d → s.params.admits (a ++ w ++ b).length = true →
      wsRun w = true → w ≠ [] →
      let m := ((s.applyStart .b32d (op []).cfg).applySymbols .b32d a).b32d
      ∃ t t', exec (op (a ++ b)) s = .next t ∧ exec (op (a ++ w ++ b)) s = .next t'
        ∧ (m.cnt = 0 ∧ m.padcnt = 0 →
          t'.b32d.port.ok = t.b32d.port.ok ∧ t'.b32d.port.out = t.b32d.port.out)
        ∧ (¬ (m.cnt = 0 ∧ m.padcnt = 0) → t'.b32d.port.ok = false ∧ t'.b32d.port.out = []))

/-- 44_validation_and_laws.md R235, 43_base16.md R208 for Base16: whitespace inserted anywhere but before or inside a `0x` prefix
changes nothing. -/
def Obligations.Base16IgnoresWhitespace : Prop :=
  ∀ (a w b : List Byte) (s : State), s.canStart .b16d → s.params.admits (a ++ w ++ b).length = true →
    wsRun w = true → (2 ≤ a.length ∨ hasPrefix16 (a ++ b) = false) →
    ∃ t t', exec (.b16dec (a ++ b)) s = .next t ∧ exec (.b16dec (a ++ w ++ b)) s = .next t'
      ∧ t'.b16d.port.ok = t.b16d.port.ok ∧ t'.b16d.port.out = t.b16d.port.out

/-- 43_base16.md R209: an `x` or `X` anywhere but as the second symbol of a leading `0x` or `0X` makes the decode fail, and such
a prefix is dropped, once. -/
def Obligations.Base16PrefixExactly : Prop :=
  ∀ (text : List Byte) (s : State), s.canStart .b16d → s.params.admits (text.length + 2) = true →
    (∃ t, exec (.b16dec text) s = .next t
      ∧ ((∃ c ∈ (if hasPrefix16 text then text.drop 2 else text), c = 0x78 ∨ c = 0x58) → t.b16d.port.ok = false))
    ∧ ∀ x, (x = 0x78 ∨ x = 0x58) → hasPrefix16 text = false →
      ∃ t t', exec (.b16dec text) s = .next t ∧ exec (.b16dec (0x30 :: x :: text)) s = .next t'
        ∧ t'.b16d.port.ok = t.b16d.port.ok ∧ t'.b16d.port.out = t.b16d.port.out

/-- 44_validation_and_laws.md R237: the empty message succeeds with an empty result on every unit, with no padding. -/
def Obligations.EmptyMessageSucceeds : Prop :=
  ∀ (i : Instr) (s : State), i.message = [] → s.canStart i.unit →
    ∃ t, exec i s = .next t ∧ (t.port i.unit).ok = true ∧ (t.port i.unit).out = [] ∧ (t.port i.unit).st = .done

/-- 30_encoding.md R128, 44_validation_and_laws.md R220: the host's actions for a pseudo-operation run the operation it expands to
and read `STATUS`, whose bit 2 is the `OK` of the decode, for a `VALID` form, `OUT` for the others. The model's choices: that this is
two steps (log entry 1), that the value read stands in `lastRead` (log entry 7), and that a default encode form reads `OUT`, of which
R128 says nothing (log entry 16). -/
def Obligations.PseudoOperationsReadTheirResult : Prop :=
  ∀ (p : Pseudo) (m : List Byte) (s : State) (rest : List HostAction),
    s.script = pseudoActions p m ++ rest → s.canStart (expandPseudo p m).unit → s.params.admits m.length = true →
    ∃ t0 t, exec (expandPseudo p m) s = .next t0 ∧ Sys2Proof.core.run 2 s = .next t ∧ t.script = rest
      ∧ (keepsOnlyOk p = true → ∃ v, t.lastRead = some (.status v)
          ∧ v.getLsbD 2 = (t0.port (expandPseudo p m).unit).ok)
      ∧ (keepsOnlyOk p = false → t.lastRead = some (.out (t0.port (expandPseudo p m).unit).out))

/-- The invariant `State.Sound` (10_state.md R26 to R36) holds at reset (log entries 4 to 7 for the model's own fields). -/
def Obligations.ResetIsSound : Prop := State.reset.Sound

/-- Every step keeps `State.Sound`: the register ranges of 10_state.md R26 to R32, a legal `CFG` (R34), "For an encoder `OK = 1`
at every `DONE`" (R35), and no result outside DONE or after a failure (R36). -/
def Obligations.StepKeepsSound : Prop :=
  ∀ s t : State, s.Sound → step s = .next t → t.Sound

/-- The length laws `State.LengthsHold` hold at reset. -/
def Obligations.ResetLengthsHold : Prop := State.reset.LengthsHold

/-- Every step keeps the length laws of 44_validation_and_laws.md R230: in the middle of a transaction and at its end an encoder's
output has exactly the length the rule gives for the symbols taken, a decoder's never exceeds the rule's bound. -/
def Obligations.StepKeepsLengthsHold : Prop :=
  ∀ s t : State, s.LengthsHold → step s = .next t → t.LengthsHold

/-- 60_exceptions.md R262, 70_reset_and_hazards.md R280: a host read of a register of a unit before its first `RESET` goes on,
changes no unit, and gives a value of the register's kind of which nothing is said (the model's choice, log entry 10: a free value,
fresh each time). -/
def Obligations.ReadBeforeResetGivesAnUndefinedValue : Prop :=
  ∀ (u : UnitId) (s : State), (s.port u).wasReset = false →
    let gives := fun (r : ReadTarget) (v : ReadValue) =>
      readTarget u r s = .next { s with lastRead := some v, undefinedReads := s.undefinedReads + 1 }
    (∃ v, gives .status (.status v)) ∧ (∃ v, gives .cfg (.cfg v)) ∧ (∃ n, gives .outLen (.outLen n))
    ∧ (∃ bytes, gives .out (.out bytes)) ∧ (∀ a, ∃ v, gives (.outByte a) (.outByte v))
    ∧ ∀ r t, readTarget u r s = .next t → t.script = s.script ∧ t.params = s.params ∧ ∀ w, t.file w = s.file w
end

