-- ==== Sys2Proof/Laws/State.lean ====
section
/-! SUPPORT. What each update of the common registers does to each field, and what each event does to each part of State: the
lemmas that keep later proofs from unfolding a record update. -/

namespace Sys2Proof.Machine

open Sys2Proof

section Port

variable (p : Port) (cfg : Cfg) (bs : List Byte)

@[simp] theorem onReset_eq : p.onReset = Port.reset := rfl

@[simp] theorem reset_wasReset : Port.reset.wasReset = true := rfl
@[simp] theorem reset_st : Port.reset.st = .idle := rfl
@[simp] theorem reset_ok : Port.reset.ok = false := rfl
@[simp] theorem reset_cfg : Port.reset.cfg = 0 := rfl
@[simp] theorem reset_obuf : Port.reset.obuf = [] := rfl
@[simp] theorem reset_out : Port.reset.out = [] := rfl
@[simp] theorem reset_sent : Port.reset.sent = 0 := rfl

@[simp] theorem onStart_wasReset : (p.onStart cfg).wasReset = p.wasReset := rfl
@[simp] theorem onStart_st : (p.onStart cfg).st = .run := rfl
@[simp] theorem onStart_ok : (p.onStart cfg).ok = false := rfl
@[simp] theorem onStart_cfg : (p.onStart cfg).cfg = cfg := rfl
@[simp] theorem onStart_obuf : (p.onStart cfg).obuf = [] := rfl
@[simp] theorem onStart_out : (p.onStart cfg).out = [] := rfl
@[simp] theorem onStart_sent : (p.onStart cfg).sent = 0 := rfl

@[simp] theorem count_wasReset : p.count.wasReset = p.wasReset := rfl
@[simp] theorem count_st : p.count.st = p.st := rfl
@[simp] theorem count_ok : p.count.ok = p.ok := rfl
@[simp] theorem count_cfg : p.count.cfg = p.cfg := rfl
@[simp] theorem count_obuf : p.count.obuf = p.obuf := rfl
@[simp] theorem count_out : p.count.out = p.out := rfl
@[simp] theorem count_sent : p.count.sent = p.sent + 1 := rfl

@[simp] theorem append_wasReset : (p.append bs).wasReset = p.wasReset := rfl
@[simp] theorem append_st : (p.append bs).st = p.st := rfl
@[simp] theorem append_ok : (p.append bs).ok = p.ok := rfl
@[simp] theorem append_cfg : (p.append bs).cfg = p.cfg := rfl
@[simp] theorem append_obuf : (p.append bs).obuf = p.obuf ++ bs := rfl
@[simp] theorem append_out : (p.append bs).out = p.out := rfl
@[simp] theorem append_sent : (p.append bs).sent = p.sent := rfl

@[simp] theorem succeed_wasReset : (p.succeed bs).wasReset = p.wasReset := rfl
@[simp] theorem succeed_st : (p.succeed bs).st = .done := rfl
@[simp] theorem succeed_ok : (p.succeed bs).ok = true := rfl
@[simp] theorem succeed_cfg : (p.succeed bs).cfg = p.cfg := rfl
@[simp] theorem succeed_obuf : (p.succeed bs).obuf = p.obuf := rfl
@[simp] theorem succeed_out : (p.succeed bs).out = bs := rfl
@[simp] theorem succeed_sent : (p.succeed bs).sent = p.sent := rfl

@[simp] theorem finishEncoder_wasReset : (p.finishEncoder bs).wasReset = p.wasReset := rfl
@[simp] theorem finishEncoder_st : (p.finishEncoder bs).st = .done := rfl
@[simp] theorem finishEncoder_ok : (p.finishEncoder bs).ok = true := rfl
@[simp] theorem finishEncoder_cfg : (p.finishEncoder bs).cfg = p.cfg := rfl
@[simp] theorem finishEncoder_obuf : (p.finishEncoder bs).obuf = p.obuf ++ bs := rfl
@[simp] theorem finishEncoder_out : (p.finishEncoder bs).out = p.obuf ++ bs := rfl
@[simp] theorem finishEncoder_sent : (p.finishEncoder bs).sent = p.sent := rfl

@[simp] theorem failAtEnd_wasReset : p.failAtEnd.wasReset = p.wasReset := rfl
@[simp] theorem failAtEnd_st : p.failAtEnd.st = .done := rfl
@[simp] theorem failAtEnd_ok : p.failAtEnd.ok = false := rfl
@[simp] theorem failAtEnd_cfg : p.failAtEnd.cfg = p.cfg := rfl
@[simp] theorem failAtEnd_obuf : p.failAtEnd.obuf = p.obuf := rfl
@[simp] theorem failAtEnd_out : p.failAtEnd.out = [] := rfl
@[simp] theorem failAtEnd_sent : p.failAtEnd.sent = p.sent := rfl

@[simp] theorem raiseDecodeFail_eq (c : Cause) (b : Bool) : raiseDecodeFail c b = true := rfl

end Port

section Apply

variable (s : State) (u : UnitId) (e : Event)

@[simp] theorem apply_params : (s.apply u e).params = s.params := by
  cases u <;> cases e <;> rfl

@[simp] theorem apply_script : (s.apply u e).script = s.script := by
  cases u <;> cases e <;> rfl

@[simp] theorem apply_lastRead : (s.apply u e).lastRead = s.lastRead := by
  cases u <;> cases e <;> rfl

@[simp] theorem apply_undefinedReads : (s.apply u e).undefinedReads = s.undefinedReads := by
  cases u <;> cases e <;> rfl

/-- An event of one unit leaves the registers of every other unit as they were (10_state.md R21). -/
theorem apply_file_of_ne {w : UnitId} (h : w ≠ u) : (s.apply u e).file w = s.file w := by
  cases u <;> cases w <;> first | exact absurd rfl h | (cases e <;> rfl)

theorem apply_port_of_ne {w : UnitId} (h : w ≠ u) : (s.apply u e).port w = s.port w := by
  cases u <;> cases w <;> first | exact absurd rfl h | (cases e <;> rfl)

/-- What an event does to one unit depends on that unit's registers and the parameters only. -/
theorem apply_file_congr {t : State} (hp : s.params = t.params) (hf : s.file u = t.file u) :
    (s.apply u e).file u = (t.apply u e).file u := by
  cases u <;> cases e <;>
    simp_all [State.apply, State.applyReset, State.applyStart, State.applySymbol, State.applyFinish, State.file]

/-- The common registers of a unit are a part of its registers. -/
theorem port_congr {t : State} (hf : s.file u = t.file u) : s.port u = t.port u := by
  cases u <;> simp_all [State.file, State.port]

@[simp] theorem withScript_port (acts : List HostAction) : ({ s with script := acts } : State).port u = s.port u := by
  cases u <;> rfl

@[simp] theorem withScript_file (acts : List HostAction) : ({ s with script := acts } : State).file u = s.file u := by
  cases u <;> rfl

theorem apply_withScript (acts : List HostAction) :
    ({ s with script := acts } : State).apply u e = { s.apply u e with script := acts } := by
  cases u <;> cases e <;> rfl

end Apply

/-- Two states are equal when every unit, the parameters and the host's fields are. -/
theorem state_ext {s t : State} (hf : ∀ u, s.file u = t.file u) (hp : s.params = t.params) (hs : s.script = t.script)
    (hl : s.lastRead = t.lastRead) (hn : s.undefinedReads = t.undefinedReads) : s = t := by
  have h1 := hf .b64e
  have h2 := hf .b64d
  have h3 := hf .b32e
  have h4 := hf .b32d
  have h5 := hf .b16e
  have h6 := hf .b16d
  cases s
  cases t
  simp_all [State.file]

end Sys2Proof.Machine
end

