-- ==== Sys2Proof/Laws/Events.lean ====
section
/-! SUPPORT. Presenting events and running transactions: everything each shared operation can do, said once. -/

namespace Sys2Proof.Machine

open Sys2Proof

section Flow

@[simp] theorem andThen_next (s : State) (k : State → Host.Outcome State Fault Refusal) :
    andThen (.next s) k = k s := rfl

@[simp] theorem andThen_fault (f : Fault) (k : State → Host.Outcome State Fault Refusal) :
    andThen (.fault f) k = .fault f := rfl

@[simp] theorem andThen_refused (r : Refusal) (k : State → Host.Outcome State Fault Refusal) :
    andThen (.refused r) k = .refused r := rfl

theorem andThen_eq_next {o : Host.Outcome State Fault Refusal} {k : State → Host.Outcome State Fault Refusal} {t : State}
    (h : andThen o k = .next t) : ∃ s1, o = .next s1 ∧ k s1 = .next t := by
  cases o with
  | next s1 => exact ⟨s1, rfl, h⟩
  | fault f => simp at h
  | refused r => simp at h

theorem andThen_assoc (o : Host.Outcome State Fault Refusal) (k l : State → Host.Outcome State Fault Refusal) :
    andThen (andThen o k) l = andThen o fun s => andThen (k s) l := by
  cases o <;> rfl

end Flow

/-- A presented event is refused for a reason, or its whole effect is the next state; it never faults. -/
theorem present_cases (u : UnitId) (e : Event) (s : State) :
    (∃ r, refusalOf u e s = some r ∧ present u e s = .refused r)
    ∨ (refusalOf u e s = none ∧ present u e s = .next (s.apply u e)) := by
  unfold present
  cases refusalOf u e s with
  | some r => exact .inl ⟨r, rfl, rfl⟩
  | none => exact .inr ⟨rfl, rfl⟩

theorem present_eq_next {u : UnitId} {e : Event} {s t : State} :
    present u e s = .next t ↔ refusalOf u e s = none ∧ t = s.apply u e := by
  rcases present_cases u e s with ⟨r, hr, h⟩ | ⟨hr, h⟩ <;> rw [h, hr] <;> simp [eq_comm]

theorem refusalOf_reset (u : UnitId) (s : State) : refusalOf u .reset s = none := rfl

theorem refusalOf_start {u : UnitId} {cfg : Cfg} {s : State} :
    refusalOf u (.start cfg) s = none ↔
      startReserved u cfg = none ∧ (s.port u).wasReset = true ∧ (s.port u).st ≠ .run := by
  cases hc : startReserved u cfg <;> cases hw : (s.port u).wasReset <;> cases hs : (s.port u).st <;>
    simp [refusalOf, hc, hw, hs, legal]

theorem refusalOf_symbol {u : UnitId} {x : Byte} {s : State} :
    refusalOf u (.symbol x) s = none ↔
      (s.port u).wasReset = true ∧ (s.port u).st = .run ∧ s.params.admits ((s.port u).sent + 1) = true := by
  cases hw : (s.port u).wasReset <;> cases hs : (s.port u).st <;>
    cases ha : s.params.admits ((s.port u).sent + 1) <;> simp [refusalOf, hw, hs, ha, legal]

theorem refusalOf_finish {u : UnitId} {s : State} :
    refusalOf u .finish s = none ↔ (s.port u).wasReset = true ∧ (s.port u).st = .run := by
  cases hw : (s.port u).wasReset <;> cases hs : (s.port u).st <;> simp [refusalOf, hw, hs, legal]

/-- Why an event is refused depends on its unit's common registers and the parameters only. -/
theorem refusalOf_congr {u : UnitId} {e : Event} {s t : State} (hp : s.params = t.params) (hf : s.port u = t.port u) :
    refusalOf u e s = refusalOf u e t := by
  cases e <;> simp [refusalOf, hp, hf]

theorem admits_mono {p : Params} {m n : Nat} (h : m ≤ n) (hn : p.admits n = true) : p.admits m = true := by
  unfold Params.admits at *
  cases hm : p.maxLen with
  | none => rfl
  | some k => simp [hm] at hn ⊢; omega

@[simp] theorem admits_zero (p : Params) : p.admits 0 = true := by
  unfold Params.admits; cases p.maxLen <;> simp

section Symbols

variable (u : UnitId)

/-- A `SYMBOL` changes neither what was latched at `START` nor the result registers, and `OBUF` only grows (10_state.md R34,
R36, R42). -/
theorem applySymbol_port (x : Byte) (s : State) :
    ∃ ys, (s.applySymbol u x).port u = { s.port u with obuf := (s.port u).obuf ++ ys, sent := (s.port u).sent + 1 } := by
  have nil (p : Port) : p.count = { p with obuf := p.obuf ++ [], sent := p.sent + 1 } := by simp [Port.count]
  cases u with
  | b64e =>
    simp only [State.applySymbol, State.port, B64E.symbol]
    split
    · exact ⟨[], nil _⟩
    · exact ⟨_, rfl⟩
  | b64d =>
    simp only [State.applySymbol, State.port, B64D.symbol, B64D.raise]
    repeat' split
    all_goals first | exact ⟨[], nil _⟩ | exact ⟨_, rfl⟩
  | b32e =>
    simp only [State.applySymbol, State.port, B32E.symbol]
    split
    · exact ⟨[], nil _⟩
    · exact ⟨_, rfl⟩
  | b32d =>
    simp only [State.applySymbol, State.port, B32D.symbol, B32D.raise]
    repeat' split
    all_goals first | exact ⟨[], nil _⟩ | exact ⟨_, rfl⟩
  | b16e => exact ⟨_, rfl⟩
  | b16d =>
    simp only [State.applySymbol, State.port, B16D.symbol, B16D.raise, B16D.advance]
    repeat' split
    all_goals first | exact ⟨[], nil _⟩ | exact ⟨_, rfl⟩

theorem applySymbol_wasReset (x : Byte) (s : State) : ((s.applySymbol u x).port u).wasReset = (s.port u).wasReset := by
  obtain ⟨ys, h⟩ := applySymbol_port u x s; rw [h]

theorem applySymbol_st (x : Byte) (s : State) : ((s.applySymbol u x).port u).st = (s.port u).st := by
  obtain ⟨ys, h⟩ := applySymbol_port u x s; rw [h]

theorem applySymbol_cfg (x : Byte) (s : State) : ((s.applySymbol u x).port u).cfg = (s.port u).cfg := by
  obtain ⟨ys, h⟩ := applySymbol_port u x s; rw [h]

theorem applySymbol_sent (x : Byte) (s : State) : ((s.applySymbol u x).port u).sent = (s.port u).sent + 1 := by
  obtain ⟨ys, h⟩ := applySymbol_port u x s; rw [h]

theorem applyStart_port (cfg : Cfg) (s : State) : (s.applyStart u cfg).port u = (s.port u).onStart cfg := by
  cases u <;> rfl

theorem applyReset_port (s : State) : (s.applyReset u).port u = Port.reset := by
  cases u <;> rfl

/-- An `END` ends in DONE and keeps what was latched at `START` (10_state.md R23, R34). -/
theorem applyFinish_port (s : State) :
    ((s.applyFinish u).port u).wasReset = (s.port u).wasReset ∧ ((s.applyFinish u).port u).st = .done
      ∧ ((s.applyFinish u).port u).cfg = (s.port u).cfg ∧ ((s.applyFinish u).port u).sent = (s.port u).sent := by
  cases u with
  | b64e => exact ⟨rfl, rfl, rfl, rfl⟩
  | b32e => exact ⟨rfl, rfl, rfl, rfl⟩
  | b16e => exact ⟨rfl, rfl, rfl, rfl⟩
  | b64d =>
    simp only [State.applyFinish, State.port, B64D.finish]
    repeat' split
    all_goals exact ⟨rfl, rfl, rfl, rfl⟩
  | b32d =>
    simp only [State.applyFinish, State.port, B32D.finish]
    repeat' split
    all_goals exact ⟨rfl, rfl, rfl, rfl⟩
  | b16d =>
    simp only [State.applyFinish, State.port, B16D.finish]
    repeat' split
    all_goals exact ⟨rfl, rfl, rfl, rfl⟩

end Symbols

/-- The state after a transaction that is not refused. -/
def afterTransaction (u : UnitId) (cfg : Cfg) (message : List Byte) (s : State) : State :=
  (message.foldl (fun s x => s.applySymbol u x) (s.applyStart u cfg)).applyFinish u

@[simp] theorem applySymbol_params (u : UnitId) (x : Byte) (s : State) : (s.applySymbol u x).params = s.params :=
  apply_params s u (.symbol x)

@[simp] theorem applyStart_params (u : UnitId) (cfg : Cfg) (s : State) : (s.applyStart u cfg).params = s.params :=
  apply_params s u (.start cfg)

@[simp] theorem applyFinish_params (u : UnitId) (s : State) : (s.applyFinish u).params = s.params :=
  apply_params s u .finish

@[simp] theorem applySymbols_params (u : UnitId) (message : List Byte) (s : State) :
    (message.foldl (fun s x => s.applySymbol u x) s).params = s.params := by
  induction message generalizing s with
  | nil => rfl
  | cons x rest ih => simp [ih]

/-- What the symbols of a message leave of the common registers. -/
theorem applySymbols_port (u : UnitId) (message : List Byte) (s : State) :
    ∃ ys, (message.foldl (fun s x => s.applySymbol u x) s).port u =
      { s.port u with obuf := (s.port u).obuf ++ ys, sent := (s.port u).sent + message.length } := by
  induction message generalizing s with
  | nil => exact ⟨[], by simp⟩
  | cons x rest ih =>
    obtain ⟨ys, h⟩ := applySymbol_port u x s
    obtain ⟨zs, h'⟩ := ih (s.applySymbol u x)
    refine ⟨ys ++ zs, ?_⟩
    rw [List.foldl_cons, h', h]
    simp only [List.append_assoc, List.length_cons, Port.mk.injEq, true_and]
    omega

/-- Presenting all symbols of a message answers a next state exactly when the unit is in RUN (or the message empty) and the
message fits. -/
theorem presentAll_eq_next {u : UnitId} {message : List Byte} {s : State} (hw : (s.port u).wasReset = true)
    (hs : (s.port u).st = .run) (ha : s.params.admits ((s.port u).sent + message.length) = true) :
    presentAll u message s = .next (message.foldl (fun s x => s.applySymbol u x) s) := by
  induction message generalizing s with
  | nil => rfl
  | cons x rest ih =>
    have hx : present u (.symbol x) s = .next (s.applySymbol u x) :=
      present_eq_next.2 ⟨refusalOf_symbol.2 ⟨hw, hs, admits_mono (by simp) ha⟩, rfl⟩
    rw [presentAll, hx, andThen_next, ih (by rw [applySymbol_wasReset, hw]) (by rw [applySymbol_st, hs])]
    · rfl
    · rw [applySymbol_params, applySymbol_sent]
      exact admits_mono (by simp; omega) ha

theorem presentAll_inv {u : UnitId} {message : List Byte} {s t : State} (h : presentAll u message s = .next t) :
    t = message.foldl (fun s x => s.applySymbol u x) s
      ∧ (message ≠ [] → s.params.admits ((s.port u).sent + message.length) = true) := by
  induction message generalizing s with
  | nil =>
    rw [presentAll] at h
    exact ⟨by injection h with h; exact h.symm, fun h0 => absurd rfl h0⟩
  | cons x rest ih =>
    obtain ⟨s1, h1, h2⟩ := andThen_eq_next h
    obtain ⟨hr, rfl⟩ := present_eq_next.1 h1
    obtain ⟨ht, hm⟩ := ih h2
    refine ⟨ht, fun _ => ?_⟩
    change (rest ≠ [] → (s.applySymbol u x).params.admits (((s.applySymbol u x).port u).sent + rest.length) = true) at hm
    rw [applySymbol_params, applySymbol_sent] at hm
    by_cases hn : rest = []
    · subst hn
      simpa using (refusalOf_symbol.1 hr).2.2
    · have := hm hn
      rwa [Nat.add_assoc, Nat.add_comm 1] at this

/-- A transaction on a unit that may start, with a legal `cfg` and a message that fits, answers a next state (10_state.md R24). -/
theorem transact_eq_next {u : UnitId} {cfg : Cfg} {message : List Byte} {s : State} (hc : startReserved u cfg = none)
    (hw : (s.port u).wasReset = true) (hs : (s.port u).st ≠ .run) (ha : s.params.admits message.length = true) :
    transact u cfg message s = .next (afterTransaction u cfg message s) := by
  have h1 : present u (.start cfg) s = .next (s.applyStart u cfg) :=
    present_eq_next.2 ⟨refusalOf_start.2 ⟨hc, hw, hs⟩, rfl⟩
  have h2 : presentAll u message (s.applyStart u cfg) =
      .next (message.foldl (fun s x => s.applySymbol u x) (s.applyStart u cfg)) := by
    apply presentAll_eq_next
    · rw [applyStart_port, onStart_wasReset, hw]
    · rw [applyStart_port, onStart_st]
    · rw [applyStart_params, applyStart_port, onStart_sent, Nat.zero_add]; exact ha
  have h3 : present u .finish (message.foldl (fun s x => s.applySymbol u x) (s.applyStart u cfg)) =
      .next (afterTransaction u cfg message s) := by
    obtain ⟨ys, hp⟩ := applySymbols_port u message (s.applyStart u cfg)
    refine present_eq_next.2 ⟨refusalOf_finish.2 ?_, rfl⟩
    rw [hp, applyStart_port]
    exact ⟨by simpa using hw, rfl⟩
  rw [transact, h1, andThen_next, h2, andThen_next, h3]

/-- Everything a transaction that answers a next state says. -/
theorem transact_inv {u : UnitId} {cfg : Cfg} {message : List Byte} {s t : State}
    (h : transact u cfg message s = .next t) :
    startReserved u cfg = none ∧ (s.port u).wasReset = true ∧ (s.port u).st ≠ .run
      ∧ s.params.admits message.length = true ∧ t = afterTransaction u cfg message s := by
  obtain ⟨s1, h1, h⟩ := andThen_eq_next h
  obtain ⟨s2, h2, h3⟩ := andThen_eq_next h
  obtain ⟨hr, rfl⟩ := present_eq_next.1 h1
  obtain ⟨hc, hw, hs⟩ := refusalOf_start.1 hr
  obtain ⟨rfl, hm⟩ := presentAll_inv h2
  obtain ⟨-, rfl⟩ := present_eq_next.1 h3
  refine ⟨hc, hw, hs, ?_, rfl⟩
  by_cases hn : message = []
  · subst hn; exact admits_zero _
  · have := hm hn
    change (s.applyStart u cfg).params.admits (((s.applyStart u cfg).port u).sent + message.length) = true at this
    rwa [applyStart_params, applyStart_port, onStart_sent, Nat.zero_add] at this

/-- A transaction changes no other unit, no parameter and nothing of the host's (10_state.md R21). -/
theorem afterTransaction_frame (u : UnitId) (cfg : Cfg) (message : List Byte) (s : State) :
    (∀ w, w ≠ u → (afterTransaction u cfg message s).file w = s.file w)
      ∧ (afterTransaction u cfg message s).params = s.params
      ∧ (afterTransaction u cfg message s).script = s.script
      ∧ (afterTransaction u cfg message s).lastRead = s.lastRead
      ∧ (afterTransaction u cfg message s).undefinedReads = s.undefinedReads := by
  let Same (t : State) : Prop := (∀ w, w ≠ u → t.file w = s.file w) ∧ t.params = s.params ∧ t.script = s.script
    ∧ t.lastRead = s.lastRead ∧ t.undefinedReads = s.undefinedReads
  have key : ∀ t : State, Same t → ∀ e : Event, Same (t.apply u e) := fun t ⟨h1, h2, h3, h4, h5⟩ e =>
    ⟨fun w hw => by rw [apply_file_of_ne t u e hw, h1 w hw], by rw [apply_params, h2], by rw [apply_script, h3],
      by rw [apply_lastRead, h4], by rw [apply_undefinedReads, h5]⟩
  have syms : ∀ (m : List Byte) (t : State), Same t → Same (m.foldl (fun s x => s.applySymbol u x) t) := by
    intro m
    induction m with
    | nil => exact fun t h => h
    | cons x rest ih => exact fun t h => ih _ (key t h (.symbol x))
  exact key _ (syms message _ (key s ⟨fun _ _ => rfl, rfl, rfl, rfl, rfl⟩ (.start cfg))) .finish

end Sys2Proof.Machine
end

