-- ==== Sys2Proof/Laws/Exec.lean ====
section
/-! SUPPORT. Every operation is one transaction; what `exec` and `step` can answer, said once. -/

namespace Sys2Proof.Machine

open Sys2Proof

/-- Every operation is the transaction of its unit, `cfg` and message (30_encoding.md R120, R121). -/
theorem exec_eq_transact (i : Instr) (s : State) : exec i s = transact i.unit i.cfg i.message s := by
  cases i <;> rfl

/-- The `cfg` of an operation is never reserved. -/
theorem startReserved_cfg (i : Instr) : startReserved i.unit i.cfg = none := by
  cases i <;> simp only [Instr.unit, Instr.cfg] <;> decide

/-- An operation whose unit may start and whose message fits answers a next state. -/
theorem exec_eq_next {i : Instr} {s : State} (hw : (s.port i.unit).wasReset = true) (hs : (s.port i.unit).st ≠ .run)
    (ha : s.params.admits i.message.length = true) :
    exec i s = .next (afterTransaction i.unit i.cfg i.message s) := by
  rw [exec_eq_transact]
  exact transact_eq_next (startReserved_cfg i) hw hs ha

/-- Everything an operation that answers a next state says. -/
theorem exec_inv {i : Instr} {s t : State} (h : exec i s = .next t) :
    (s.port i.unit).wasReset = true ∧ (s.port i.unit).st ≠ .run ∧ s.params.admits i.message.length = true
      ∧ t = afterTransaction i.unit i.cfg i.message s := by
  rw [exec_eq_transact] at h
  obtain ⟨-, hw, hs, ha, ht⟩ := transact_inv h
  exact ⟨hw, hs, ha, ht⟩

section Registers

variable (message : List Byte) (s : State)

theorem applySymbols_b64e : (message.foldl (fun s x => s.applySymbol .b64e x) s).b64e =
    message.foldl (fun r x => B64E.symbol x { r with port := r.port.count }) s.b64e := by
  induction message generalizing s with
  | nil => rfl
  | cons x rest ih => exact ih _

theorem applySymbols_b64d : (message.foldl (fun s x => s.applySymbol .b64d x) s).b64d =
    message.foldl (fun r x => B64D.symbol x { r with port := r.port.count }) s.b64d := by
  induction message generalizing s with
  | nil => rfl
  | cons x rest ih => exact ih _

theorem applySymbols_b32e : (message.foldl (fun s x => s.applySymbol .b32e x) s).b32e =
    message.foldl (fun r x => B32E.symbol x { r with port := r.port.count }) s.b32e := by
  induction message generalizing s with
  | nil => rfl
  | cons x rest ih => exact ih _

theorem applySymbols_b32d : (message.foldl (fun s x => s.applySymbol .b32d x) s).b32d =
    message.foldl (fun r x => B32D.symbol s.params.b32OddCount x { r with port := r.port.count }) s.b32d := by
  induction message generalizing s with
  | nil => rfl
  | cons x rest ih => exact ih _

theorem applySymbols_b16e : (message.foldl (fun s x => s.applySymbol .b16e x) s).b16e =
    message.foldl (fun r x => B16E.symbol x { r with port := r.port.count }) s.b16e := by
  induction message generalizing s with
  | nil => rfl
  | cons x rest ih => exact ih _

theorem applySymbols_b16d : (message.foldl (fun s x => s.applySymbol .b16d x) s).b16d =
    message.foldl (fun r x => B16D.symbol x { r with port := r.port.count }) s.b16d := by
  induction message generalizing s with
  | nil => rfl
  | cons x rest ih => exact ih _

end Registers

/-- A step with an empty script changes nothing. -/
theorem step_nil {s : State} (h : s.script = []) : step s = .next s := by
  simp [step, takeAction, h]

/-- A step takes the first action of the script. -/
theorem step_cons {s : State} {a : HostAction} {rest : List HostAction} (h : s.script = a :: rest) :
    step s = act a { s with script := rest } := by
  simp [step, takeAction, h]

@[simp] theorem act_reset (u : UnitId) (s : State) : act (.reset u) s = present u .reset s := rfl

@[simp] theorem act_symbol (u : UnitId) (x : Byte) (s : State) : act (.symbol u x) s = present u (.symbol x) s := rfl

@[simp] theorem act_finish (u : UnitId) (s : State) : act (.finish u) s = present u .finish s := rfl

@[simp] theorem act_read (u : UnitId) (r : ReadTarget) (s : State) : act (.read u r) s = readTarget u r s := rfl

@[simp] theorem takeUndefined_file (v : ReadValue) (s : State) (u : UnitId) : (s.takeUndefined v).file u = s.file u := by
  cases u <;> rfl

@[simp] theorem takeUndefined_port (v : ReadValue) (s : State) (u : UnitId) : (s.takeUndefined v).port u = s.port u := by
  cases u <;> rfl

@[simp] theorem takeUndefined_params (v : ReadValue) (s : State) : (s.takeUndefined v).params = s.params := rfl

@[simp] theorem takeUndefined_script (v : ReadValue) (s : State) : (s.takeUndefined v).script = s.script := rfl

/-- Everything a host read that goes on can do: the host gets a value, and an undefined read is counted. -/
theorem readTarget_inv {u : UnitId} {r : ReadTarget} {s t : State} (h : readTarget u r s = .next t) :
    ∃ v n, t = { s with lastRead := some v, undefinedReads := n } := by
  unfold readTarget at h
  split at h
  · cases r <;> simp only [readUndefined] at h
    case working w => exact nomatch h
    all_goals
      injection h with h
      exact ⟨_, _, h.symm⟩
  · cases r <;> simp only at h
    case outByte a =>
      split at h
      · injection h with h
        exact ⟨_, _, h.symm⟩
      · exact nomatch h
    case working w => exact nomatch h
    all_goals
      injection h with h
      exact ⟨_, _, h.symm⟩

/-- Everything an action that answers a next state can be: an event that is not refused, a whole transaction, or a read that
touches no unit. -/
theorem act_inv {a : HostAction} {s t : State} (h : act a s = .next t) :
    (∃ u e, refusalOf u e s = none ∧ t = s.apply u e
        ∧ (a = .reset u ∧ e = .reset ∨ (∃ opd cfg, a = .start opd ∧ e = .start cfg)
          ∨ (∃ x, a = .symbol u x ∧ e = .symbol x) ∨ a = .finish u ∧ e = .finish))
    ∨ (∃ i, (∃ opd message, a = .line opd message ∧ decode opd message = .ok i) ∧ exec i s = .next t)
    ∨ (∃ u r v n, a = .read u r ∧ t = { s with lastRead := some v, undefinedReads := n }) := by
  cases a with
  | reset u =>
    rw [act_reset] at h
    obtain ⟨hr, rfl⟩ := present_eq_next.1 h
    exact .inl ⟨u, .reset, hr, rfl, .inl ⟨rfl, rfl⟩⟩
  | start opd =>
    simp only [act] at h
    split at h
    · obtain ⟨hr, rfl⟩ := present_eq_next.1 h
      exact .inl ⟨_, _, hr, rfl, .inr (.inl ⟨opd, _, rfl, rfl⟩)⟩
    · exact nomatch h
  | symbol u x =>
    rw [act_symbol] at h
    obtain ⟨hr, rfl⟩ := present_eq_next.1 h
    exact .inl ⟨u, .symbol x, hr, rfl, .inr (.inr (.inl ⟨x, rfl, rfl⟩))⟩
  | finish u =>
    rw [act_finish] at h
    obtain ⟨hr, rfl⟩ := present_eq_next.1 h
    exact .inl ⟨u, .finish, hr, rfl, .inr (.inr (.inr ⟨rfl, rfl⟩))⟩
  | line opd message =>
    simp only [act] at h
    split at h
    · exact .inr (.inl ⟨_, ⟨opd, message, rfl, by assumption⟩, h⟩)
    · exact nomatch h
  | read u r =>
    obtain ⟨v, n, rfl⟩ := readTarget_inv h
    exact .inr (.inr ⟨u, r, v, n, rfl, rfl⟩)

end Sys2Proof.Machine
end

