-- ==== Sys2Proof/Laws/PerInstr.lean ====
section
/-! SUPPORT. Per-operation lemmas about the operations as syntax. -/

namespace Sys2Proof.Laws.DescriptorFields

open Sys2Proof

/-- The descriptor of an operation is `UNIT, FLAG, VARIANT`: the code of its unit above its `cfg` (30_encoding.md R120), and a
decoder has no `FLAG` (10_state.md R34). -/
def Statement (i : Instr) : Prop :=
  (encode i).1 = i.unit.code ++ i.cfg ∧ (i.unit.code.getLsbD 0 = true → i.cfg.getLsbD 1 = false)

theorem b64encStdNopad (bytes : List Byte) : Statement (.b64encStdNopad bytes) :=
  ⟨by simp only [encode, Instr.unit, Instr.cfg]; decide, by simp only [Instr.unit, Instr.cfg]; decide⟩

theorem b64encUrlNopad (bytes : List Byte) : Statement (.b64encUrlNopad bytes) :=
  ⟨by simp only [encode, Instr.unit, Instr.cfg]; decide, by simp only [Instr.unit, Instr.cfg]; decide⟩

theorem b64encStdPad (bytes : List Byte) : Statement (.b64encStdPad bytes) :=
  ⟨by simp only [encode, Instr.unit, Instr.cfg]; decide, by simp only [Instr.unit, Instr.cfg]; decide⟩

theorem b64encUrlPad (bytes : List Byte) : Statement (.b64encUrlPad bytes) :=
  ⟨by simp only [encode, Instr.unit, Instr.cfg]; decide, by simp only [Instr.unit, Instr.cfg]; decide⟩

theorem b64decStd (text : List Byte) : Statement (.b64decStd text) :=
  ⟨by simp only [encode, Instr.unit, Instr.cfg]; decide, by simp only [Instr.unit, Instr.cfg]; decide⟩

theorem b64decUrl (text : List Byte) : Statement (.b64decUrl text) :=
  ⟨by simp only [encode, Instr.unit, Instr.cfg]; decide, by simp only [Instr.unit, Instr.cfg]; decide⟩

theorem b32encStdNopad (bytes : List Byte) : Statement (.b32encStdNopad bytes) :=
  ⟨by simp only [encode, Instr.unit, Instr.cfg]; decide, by simp only [Instr.unit, Instr.cfg]; decide⟩

theorem b32encHexNopad (bytes : List Byte) : Statement (.b32encHexNopad bytes) :=
  ⟨by simp only [encode, Instr.unit, Instr.cfg]; decide, by simp only [Instr.unit, Instr.cfg]; decide⟩

theorem b32encStdPad (bytes : List Byte) : Statement (.b32encStdPad bytes) :=
  ⟨by simp only [encode, Instr.unit, Instr.cfg]; decide, by simp only [Instr.unit, Instr.cfg]; decide⟩

theorem b32encHexPad (bytes : List Byte) : Statement (.b32encHexPad bytes) :=
  ⟨by simp only [encode, Instr.unit, Instr.cfg]; decide, by simp only [Instr.unit, Instr.cfg]; decide⟩

theorem b32decStd (text : List Byte) : Statement (.b32decStd text) :=
  ⟨by simp only [encode, Instr.unit, Instr.cfg]; decide, by simp only [Instr.unit, Instr.cfg]; decide⟩

theorem b32decHex (text : List Byte) : Statement (.b32decHex text) :=
  ⟨by simp only [encode, Instr.unit, Instr.cfg]; decide, by simp only [Instr.unit, Instr.cfg]; decide⟩

theorem b16encLower (bytes : List Byte) : Statement (.b16encLower bytes) :=
  ⟨by simp only [encode, Instr.unit, Instr.cfg]; decide, by simp only [Instr.unit, Instr.cfg]; decide⟩

theorem b16encUpper (bytes : List Byte) : Statement (.b16encUpper bytes) :=
  ⟨by simp only [encode, Instr.unit, Instr.cfg]; decide, by simp only [Instr.unit, Instr.cfg]; decide⟩

theorem b16dec (text : List Byte) : Statement (.b16dec text) :=
  ⟨by simp only [encode, Instr.unit, Instr.cfg]; decide, by simp only [Instr.unit, Instr.cfg]; decide⟩

end Sys2Proof.Laws.DescriptorFields
end

