-- ==== Sys2Proof/Tests/Slice0.lean ====
section
/-! SUPPORT. Tests of the model: expected results are those of 95_test_vectors.md, the descriptors of 30_encoding.md R121 and the
ROM rows of 20_memory.md, written out by hand; and one witness per statement with hypotheses. -/

namespace Sys2Proof.Tests

open Sys2Proof Sys2Proof.Machine

/-- `OK` and `OUT` of a unit where the outcome is a next state. -/
def result (u : UnitId) (o : Host.Outcome State Fault Refusal) : Option (Bool × List Byte) :=
  match o with
  | .next t => some ((t.port u).ok, (t.port u).out)
  | .fault _ => none
  | .refused _ => none

/-- The refusal of an outcome, if it is one. -/
def refusal (o : Host.Outcome State Fault Refusal) : Option Refusal :=
  match o with
  | .next _ => none
  | .fault _ => none
  | .refused r => some r

/-- A unit in the middle of a transaction: after `START(cfg)` and the symbols. -/
def mid (u : UnitId) (cfg : Cfg) (m : List Byte) : State := (State.reset.applyStart u cfg).applySymbols u m

/-- The reset state with `MAX_LEN = n`. -/
def bounded (n : Nat) : State := { State.reset with params.maxLen := some n }

/-- The reset state with `B32_ODD_COUNT = floor`. -/
def floored : State := { State.reset with params.b32OddCount := .floor }

/-- A state whose host has one action to present. -/
def about (a : HostAction) : State := { State.reset with script := [a] }

/-! WellFormed: a message longer than `MAX_LEN` is refused (00_scope.md R9), one of exactly that length is not. -/

theorem test_wellFormed_refuses_too_long :
    Instr.wellFormed { maxLen := some 2, b32OddCount := .fail } (.b64encStdPad [1, 2, 3]) = false := by decide

theorem test_wellFormed_admits_max_len :
    Instr.wellFormed { maxLen := some 3, b32OddCount := .fail } (.b64encStdPad [1, 2, 3]) = true := by decide

theorem test_exec_refuses_ill_formed :
    refusal (exec (.b16encLower [1, 2, 3]) (bounded 2)) = some (.tooLong .b16e) := by decide

/-! Decode: every descriptor of 30_encoding.md R121, `UNIT`, `FLAG`, `VARIANT` written out bit by bit. -/

theorem test_decode_b64encStdNopad :
    (decode (0b000#3 ++ 0b0#1 ++ 0b0#1) [0x66]).toOption = some (.b64encStdNopad [0x66]) := by decide

theorem test_decode_b64encUrlNopad :
    (decode (0b000#3 ++ 0b0#1 ++ 0b1#1) [0x66]).toOption = some (.b64encUrlNopad [0x66]) := by decide

theorem test_decode_b64encStdPad :
    (decode (0b000#3 ++ 0b1#1 ++ 0b0#1) [0x66]).toOption = some (.b64encStdPad [0x66]) := by decide

theorem test_decode_b64encUrlPad :
    (decode (0b000#3 ++ 0b1#1 ++ 0b1#1) [0x66]).toOption = some (.b64encUrlPad [0x66]) := by decide

theorem test_decode_b64decStd :
    (decode (0b001#3 ++ 0b0#1 ++ 0b0#1) [0x66]).toOption = some (.b64decStd [0x66]) := by decide

theorem test_decode_b64decUrl :
    (decode (0b001#3 ++ 0b0#1 ++ 0b1#1) [0x66]).toOption = some (.b64decUrl [0x66]) := by decide

theorem test_decode_b32encStdNopad :
    (decode (0b010#3 ++ 0b0#1 ++ 0b0#1) [0x66]).toOption = some (.b32encStdNopad [0x66]) := by decide

theorem test_decode_b32encHexNopad :
    (decode (0b010#3 ++ 0b0#1 ++ 0b1#1) [0x66]).toOption = some (.b32encHexNopad [0x66]) := by decide

theorem test_decode_b32encStdPad :
    (decode (0b010#3 ++ 0b1#1 ++ 0b0#1) [0x66]).toOption = some (.b32encStdPad [0x66]) := by decide

theorem test_decode_b32encHexPad :
    (decode (0b010#3 ++ 0b1#1 ++ 0b1#1) [0x66]).toOption = some (.b32encHexPad [0x66]) := by decide

theorem test_decode_b32decStd :
    (decode (0b011#3 ++ 0b0#1 ++ 0b0#1) [0x66]).toOption = some (.b32decStd [0x66]) := by decide

theorem test_decode_b32decHex :
    (decode (0b011#3 ++ 0b0#1 ++ 0b1#1) [0x66]).toOption = some (.b32decHex [0x66]) := by decide

theorem test_decode_b16encLower :
    (decode (0b100#3 ++ 0b0#1 ++ 0b0#1) [0x66]).toOption = some (.b16encLower [0x66]) := by decide

theorem test_decode_b16encUpper :
    (decode (0b100#3 ++ 0b1#1 ++ 0b0#1) [0x66]).toOption = some (.b16encUpper [0x66]) := by decide

theorem test_decode_b16dec :
    (decode (0b101#3 ++ 0b0#1 ++ 0b0#1) [0x66]).toOption = some (.b16dec [0x66]) := by decide

/-! The reserved descriptors of R124, one of each kind. -/

theorem test_decode_refuses_unit_six :
    (decode 0b11000 []).toOption = none := by decide

theorem test_decode_refuses_unit_seven :
    (decode 0b11111 []).toOption = none := by decide

theorem test_decode_refuses_b64d_flag :
    (decode 0b00110 []).toOption = none := by decide

theorem test_decode_refuses_b32d_flag :
    (decode 0b01111 []).toOption = none := by decide

theorem test_decode_refuses_b16e_variant :
    (decode 0b10001 []).toOption = none := by decide

theorem test_decode_refuses_b16d_flag :
    (decode 0b10110 []).toOption = none := by decide

theorem test_decode_refuses_b16d_variant :
    (decode 0b10101 []).toOption = none := by decide

theorem test_decode_counts_fifteen :
    ((List.range 32).filter fun n => (decodeTableWord 8 n).isSome).length = 15 := by decide

/-! The operations, one or two each (95_test_vectors.md sections 1, 2.1, 3.2 to 3.7, 3.10). -/

theorem test_exec_b64encStdNopad :
    result .b64e (exec (.b64encStdNopad [0x66]) State.reset) =
      some (true, [0x5A, 0x67]) := by decide

theorem test_exec_b64encStdNopad_slash :
    result .b64e (exec (.b64encStdNopad [0xFF, 0xFF, 0xFF]) State.reset) =
      some (true, [0x2F, 0x2F, 0x2F, 0x2F]) := by decide

theorem test_exec_b64encUrlNopad :
    result .b64e (exec (.b64encUrlNopad [0xFF, 0xFF, 0xFF]) State.reset) =
      some (true, [0x5F, 0x5F, 0x5F, 0x5F]) := by decide

theorem test_exec_b64encUrlNopad_short :
    result .b64e (exec (.b64encUrlNopad [0x66, 0x6F]) State.reset) =
      some (true, [0x5A, 0x6D, 0x38]) := by decide

theorem test_exec_b64encStdPad :
    result .b64e (exec (.b64encStdPad [0x66, 0x6F]) State.reset) =
      some (true, [0x5A, 0x6D, 0x38, 0x3D]) := by decide

theorem test_exec_b64encStdPad_two_groups :
    result .b64e (exec (.b64encStdPad [0x66, 0x6F, 0x6F, 0x62]) State.reset) =
      some (true, [0x5A, 0x6D, 0x39, 0x76, 0x59, 0x67, 0x3D, 0x3D]) := by decide

theorem test_exec_b64encUrlPad :
    result .b64e (exec (.b64encUrlPad [0x66]) State.reset) =
      some (true, [0x5A, 0x67, 0x3D, 0x3D]) := by decide

theorem test_exec_b64decStd :
    result .b64d (exec (.b64decStd [0x5A, 0x6D, 0x39, 0x76, 0x59, 0x6D, 0x45, 0x3D]) State.reset) =
      some (true, [0x66, 0x6F, 0x6F, 0x62, 0x61]) := by decide

theorem test_exec_b64decStd_refuses_unpadded :
    result .b64d (exec (.b64decStd [0x5A, 0x6D, 0x39]) State.reset) =
      some (false, []) := by decide

theorem test_exec_b64decUrl :
    result .b64d (exec (.b64decUrl [0x5A, 0x6D, 0x39]) State.reset) =
      some (true, [0x66, 0x6F]) := by decide

theorem test_exec_b64decUrl_padding_only :
    result .b64d (exec (.b64decUrl [0x3D, 0x3D, 0x3D, 0x3D]) State.reset) =
      some (false, []) := by decide

theorem test_exec_b32encStdNopad :
    result .b32e (exec (.b32encStdNopad [0xCF, 0xFF, 0xFF]) State.reset) =
      some (true, [0x5A, 0x37, 0x37, 0x37, 0x36]) := by decide

theorem test_exec_b32encHexNopad :
    result .b32e (exec (.b32encHexNopad [0x00, 0xFF]) State.reset) =
      some (true, [0x30, 0x33, 0x56, 0x47]) := by decide

theorem test_exec_b32encStdPad :
    result .b32e (exec (.b32encStdPad [0x66, 0x6F, 0x6F, 0x62]) State.reset) =
      some (true, [0x4D, 0x5A, 0x58, 0x57, 0x36, 0x59, 0x51, 0x3D]) := by decide

theorem test_exec_b32encStdPad_full :
    result .b32e (exec (.b32encStdPad [0x66, 0x6F, 0x6F, 0x62, 0x61]) State.reset) =
      some (true, [0x4D, 0x5A, 0x58, 0x57, 0x36, 0x59, 0x54, 0x42]) := by decide

theorem test_exec_b32encHexPad :
    result .b32e (exec (.b32encHexPad [0x66]) State.reset) =
      some (true, [0x43, 0x4F, 0x3D, 0x3D, 0x3D, 0x3D, 0x3D, 0x3D]) := by decide

theorem test_exec_b32decStd :
    result .b32d (exec (.b32decStd [0x6D, 0x7A, 0x78, 0x77, 0x36, 0x3D, 0x3D, 0x3D]) State.reset) =
      some (true, [0x66, 0x6F, 0x6F]) := by decide

theorem test_exec_b32decHex :
    result .b32d (exec (.b32decHex [0x30, 0x33, 0x76, 0x67]) State.reset) =
      some (true, [0x00, 0xFF]) := by decide

theorem test_exec_b16encLower :
    result .b16e (exec (.b16encLower [0xDE, 0xAD]) State.reset) =
      some (true, [0x64, 0x65, 0x61, 0x64]) := by decide

theorem test_exec_b16encUpper :
    result .b16e (exec (.b16encUpper [0xDE, 0xAD]) State.reset) =
      some (true, [0x44, 0x45, 0x41, 0x44]) := by decide

theorem test_exec_b16dec :
    result .b16d (exec (.b16dec [0x30, 0x78, 0x36, 0x36, 0x20, 0x36, 0x46]) State.reset) =
      some (true, [0x66, 0x6F]) := by decide

theorem test_exec_b16dec_refuses_odd :
    result .b16d (exec (.b16dec [0x46, 0x46, 0x46]) State.reset) =
      some (false, []) := by decide

/-! `B32_ODD_COUNT` (92_eei_decisions.md D14): three data symbols fail, or give one byte where it is `floor`. -/

theorem test_exec_odd_count_fails :
    result .b32d (exec (.b32decStd [0x4D, 0x5A, 0x58]) State.reset) =
      some (false, []) := by decide

theorem test_exec_odd_count_floors :
    result .b32d (exec (.b32decHex [0x43, 0x50, 0x4E]) floored) =
      some (true, [0x66]) := by decide

/-! Group packing (95 3.1, section 1), the ROMs (95 3.8; 20_memory.md R61 to R71), the spaces. -/

theorem test_pack64_fo :
    (pack64 0x66 0x6F 0).map BitVec.toNat = [25, 38, 60, 0] := by decide

theorem test_unpack64_fo :
    unpack64 25 38 60 0 3 = [0x66, 0x6F] := by decide

theorem test_pack32_foo :
    (pack32 0x66 0x6F 0x6F 0 0).map BitVec.toNat = [12, 25, 23, 22, 30, 0, 0, 0] := by decide

theorem test_unpack32_foobar_tail :
    unpack32 14 8 0 0 0 0 0 0 2 = [0x72] := by decide

theorem test_rom_e64 :
    e64 0 62 = 0x2B ∧ e64 0 63 = 0x2F ∧ e64 1 62 = 0x2D ∧ e64 1 63 = 0x5F ∧ e64 0 25 = 0x5A ∧ e64 0 26 = 0x61 := by decide

theorem test_rom_e32 :
    e32 0 25 = 0x5A ∧ e32 0 26 = 0x32 ∧ e32 1 9 = 0x39 ∧ e32 1 31 = 0x56 := by decide

theorem test_rom_d64 :
    d64 0 0x2B = 62 ∧ d64 1 0x2B = 255 ∧ d64 1 0x2D = 62 ∧ d64 0 0x3D = 255 ∧ d64 0 0x80 = 255 := by decide

theorem test_rom_d32 :
    d32 0 0x30 = 255 ∧ d32 0 0x37 = 31 ∧ d32 0 0x7A = 25 ∧ d32 1 0x57 = 255 ∧ d32 1 0x76 = 31 := by decide

theorem test_rom_d16 :
    d16 0x66 = 15 ∧ d16 0x46 = 15 ∧ d16 0x67 = 255 ∧ d16 0x23 = 255 := by decide

theorem test_space_ends :
    memRead State.reset .e16 31 = some 0x46 ∧ memRead State.reset .e16 32 = none ∧ memRead State.reset .d32 511 = some 255
      ∧ memRead State.reset (.out .b16d) 0 = none := by decide

/-! The working registers in the middle of a transaction (the traces of 95 4.1 to 4.4) and the protocol (95 3.9). -/

theorem test_trace_b32d_closed :
    let u := (mid .b32d 0 [0x4F, 0x49, 0x3D, 0x3D, 0x3D, 0x3D, 0x3D, 0x3D]).b32d
    u.closed = true ∧ u.cnt = 0 ∧ u.padcnt = 0 ∧ u.port.obuf = [0x72] ∧ u.port.st = .run := by decide

theorem test_trace_b16d_prefix :
    let u := (mid .b16d 0 [0x30, 0x78]).b16d
    u.pos = 2 ∧ u.first0 = true ∧ u.haveHi = false ∧ u.hi = 0 ∧ u.port.obuf = [] := by decide

theorem test_trace_b64d_open :
    let u := (mid .b64d 0 [0x5A, 0x6D, 0x39, 0x76, 0x59, 0x67, 0x3D]).b64d
    u.cnt = 2 ∧ u.padcnt = 1 ∧ u.v[0] = 24 ∧ u.v[1] = 32 ∧ u.port.obuf = [0x66, 0x6F, 0x6F] := by decide

theorem test_protocol_symbol_in_idle :
    refusal (present .b64e (.symbol 0x66) State.reset) = some (.outOfProtocol .b64e (.symbol 0x66) .idle) := by decide

theorem test_protocol_start_in_run :
    refusal (present .b64e (.start 0) (mid .b64e 0 [])) = some (.outOfProtocol .b64e (.start 0) .run) := by decide

theorem test_protocol_end_in_idle :
    refusal (present .b16d .finish State.reset) = some (.outOfProtocol .b16d .finish .idle) := by decide

theorem test_protocol_reserved_start :
    refusal (step (about (.start 0b00110))) = some (.reservedDescriptor .decoderFlag) := by decide

theorem test_step_runs_placed_word :
    result .b64e (step (State.reset.withFetchWord 8 0x02)) = some (true, []) := by decide

theorem test_step_ignores_high_bits :
    result .b16d (step (State.reset.withFetchWord 8 0xF4)) = some (true, []) := by decide

/-! The per-operation family holds of an operation (30_encoding.md R120). -/

theorem test_descriptor_fields :
    Laws.DescriptorFields.Statement (.b16encUpper []) := Laws.DescriptorFields.b16encUpper []

/-! Witnesses: for every statement of Certificates/Slice0/Obligations.lean with hypotheses, a concrete state and operands that meet
them all, for each clause. -/

theorem test_witness_start_accepted :
    (startReserved .b64e 3 = none ∧ State.reset.canStart .b64e)
    ∧ (startReserved .b16d 0 = none ∧ (State.reset.applyStart .b16d 0 |>.applyFinish .b16d).canStart .b16d) :=
  by decide

/-- A B64E whose stale cells hold something else than those of State.reset. -/
def staleB64e : State := { State.reset with b64e.b := #v[9, 9, 9] }

theorem test_witness_stale_cells :
    staleB64e.params = State.reset.params ∧ State.reset.agreeOnWritten .b64e staleB64e
    ∧ ∃ t, present .b64e (.start 3) State.reset = .next t := ⟨rfl, ⟨rfl, by decide⟩, _, rfl⟩

theorem test_witness_reset_leaves_other_units :
    UnitId.b64e ≠ UnitId.b16d := by decide

theorem test_witness_before_reset :
    (State.reset.powerUp.port .b32d).wasReset = false ∧ Event.finish ≠ Event.reset
    ∧ (Instr.b32decStd [0x4D]).unit = .b32d := by decide

theorem test_witness_read_before_reset :
    (State.reset.powerUp.port .b16e).wasReset = false
    ∧ ∃ t, readTarget .b16e (.outByte 3) State.reset.powerUp = .next t := ⟨rfl, _, rfl⟩

theorem test_undefined_read_counts :
    ∃ t, readTarget .b64e .out State.reset.powerUp = .next t ∧ t.undefinedReads = 1 := ⟨_, rfl, rfl⟩

theorem test_witness_protocol_table :
    (State.reset.port .b64d).wasReset = true ∧ (∃ t, present .b64d (.start 1) State.reset = .next t)
    ∧ (∃ t, present .b64d (.symbol 0x5A) (mid .b64d 1 []) = .next t)
    ∧ (∃ t, present .b64d .finish (mid .b64d 1 [0x5A]) = .next t) ∧ (∃ t, present .b64d .reset (mid .b64d 1 [0x5A]) = .next t) :=
  ⟨rfl, ⟨_, rfl⟩, ⟨_, rfl⟩, ⟨_, rfl⟩, ⟨_, rfl⟩⟩

theorem test_witness_protocol_table_refused :
    ¬ ∃ t, present .b64d (.symbol 0x5A) State.reset = .next t :=
  fun ⟨_, h⟩ => (show refusal (present .b64d (.symbol 0x5A) State.reset) ≠ none by decide) (congrArg refusal h)

theorem test_witness_protocol_at_max_len :
    (bounded 2).params.admits 2 = true ∧ (bounded 2).params.admits 3 = false := by decide

theorem test_witness_reserved_descriptors :
    (∃ why, decode 0b11000 [] = .error why) ∧ (∃ why, decode 0b11111 [] = .error why)
    ∧ (∃ why, decode 0b00110 [] = .error why) ∧ (∃ why, decode 0b01111 [] = .error why)
    ∧ (∃ why, decode 0b10011 [] = .error why) ∧ (∃ why, decode 0b10101 [] = .error why) :=
  ⟨⟨_, rfl⟩, ⟨_, rfl⟩, ⟨_, rfl⟩, ⟨_, rfl⟩, ⟨_, rfl⟩, ⟨_, rfl⟩⟩

theorem test_witness_decode_some :
    decode 0b10100 [0x46] = .ok (.b16dec [0x46]) := rfl

theorem test_witness_step_runs :
    (about (.line 0b10100 [0x46])).script = .line 0b10100 [0x46] :: [] ∧ decode 0b10100 [0x46] = .ok (.b16dec [0x46])
    ∧ (about (.start 0b01101)).script = .start 0b01101 :: [] ∧ decode 0b01101 [] = .ok (.b32decHex [])
    ∧ (about (.reset .b16e)).script = .reset .b16e :: [] ∧ (about (.symbol .b64e 1)).script = .symbol .b64e 1 :: []
    ∧ (about (.finish .b32e)).script = .finish .b32e :: [] ∧ State.reset.script = []
    ∧ decodeTableWord 8 0x14 = some (.b16dec []) := ⟨rfl, rfl, rfl, rfl, rfl, rfl, rfl, rfl, rfl⟩

theorem test_witness_operation_events :
    ({ State.reset with script := eventActions (.b64encUrlPad [1, 2]) ++ [.read .b64e .out] } : State).script
      = eventActions (.b64encUrlPad [1, 2]) ++ [.read .b64e .out] := by decide

theorem test_witness_operation_accepted :
    State.reset.canStart (Instr.b64encStdPad [1, 2]).unit
    ∧ (Instr.b64encStdPad [1, 2]).wellFormed (bounded 2).params = true := by decide

theorem test_witness_operation_too_long :
    (bounded 2).canStart (Instr.b64decUrl [1, 2, 3]).unit
    ∧ (Instr.b64decUrl [1, 2, 3]).wellFormed (bounded 2).params = false := by decide

theorem test_witness_operation_out_of_protocol :
    (mid .b64d 0 []).running (Instr.b64decUrl []).unit := by decide

theorem test_witness_b64e_running :
    (mid .b64e 3 []).running .b64e ∧ (mid .b64e 3 []).b64e.cnt.toNat = 0
    ∧ (mid .b64e 3 [1]).running .b64e ∧ (mid .b64e 3 [1]).b64e.cnt.toNat = 1
    ∧ (mid .b64e 3 [1, 2]).running .b64e ∧ (mid .b64e 3 [1, 2]).b64e.cnt.toNat = 2
    ∧ (mid .b64e 3 [1, 2]).params.admits ((mid .b64e 3 [1, 2]).b64e.port.sent + 1) = true := by decide

theorem test_witness_b32e_running :
    (mid .b32e 2 []).running .b32e ∧ (mid .b32e 2 []).b32e.cnt.toNat = 0
    ∧ (mid .b32e 2 [1, 2, 3]).running .b32e ∧ (mid .b32e 2 [1, 2, 3]).b32e.cnt.toNat = 3
    ∧ (mid .b32e 2 [1, 2, 3, 4]).running .b32e ∧ (mid .b32e 2 [1, 2, 3, 4]).b32e.cnt.toNat = 4
    ∧ (mid .b32e 2 [1, 2, 3, 4]).params.admits ((mid .b32e 2 [1, 2, 3, 4]).b32e.port.sent + 1) = true := by decide

theorem test_witness_b16e_running :
    (mid .b16e 2 [0xDE]).running .b16e
    ∧ (mid .b16e 2 [0xDE]).params.admits ((mid .b16e 2 [0xDE]).b16e.port.sent + 1) = true := by decide

theorem test_witness_encoders_may_start :
    State.reset.canStart .b64e ∧ State.reset.canStart .b32e ∧ State.reset.canStart .b16e
    ∧ (bounded 3).canStart .b64e ∧ (bounded 3).params.admits [1, 2, 3].length = true := by decide

theorem test_witness_b64d_arms :
    (let u := (mid .b64d 0 []).b64d;
      u.fail = false ∧ u.cnt.toNat = 0 ∧ u.padcnt.toNat = 0 ∧ u.closed = false ∧ isWs 0x20 = true)
    ∧ (let u := (mid .b64d 0 [0x5A]).b64d;
      u.fail = false ∧ u.cnt.toNat < 2 ∧ d64 0 0x67 ≠ 255 ∧ d64 0 0x21 = 255)
    ∧ (let u := (mid .b64d 0 [0x5A, 0x67]).b64d;
      u.cnt.toNat = 2 ∧ u.cnt.toNat + u.padcnt.toNat + 1 ≠ 4)
    ∧ (let u := (mid .b64d 1 [0x5A, 0x6D, 0x39]).b64d;
      u.cnt.toNat = 3 ∧ u.cnt.toNat + u.padcnt.toNat + 1 = 4 ∧ variantOf u.port.cfg = 1)
    ∧ (let u := (mid .b64d 0 [0x5A, 0x67, 0x3D]).b64d;
      u.fail = false ∧ 0 < u.padcnt.toNat ∧ u.cnt.toNat + u.padcnt.toNat + 1 = 4)
    ∧ (let u := (mid .b64d 0 [0x5A, 0x67, 0x3D, 0x3D]).b64d;
      u.fail = false ∧ u.closed = true ∧ isWs 0x5A = false) := by decide

theorem test_witness_b32d_arms :
    (let u := (mid .b32d 0 [0x4D, 0x5A, 0x58, 0x57, 0x36, 0x59, 0x54]).b32d;
      u.fail = false ∧ u.cnt.toNat = 7 ∧ u.padcnt.toNat = 0 ∧ u.cnt.toNat + u.padcnt.toNat + 1 = 8)
    ∧ (let u := (mid .b32d 0 [0x4D, 0x5A, 0x58]).b32d;
      u.fail = false ∧ u.closed = false ∧ u.cnt.toNat = 3 ∧ d32 0 0x57 ≠ 255 ∧ d32 0 0x30 = 255)
    ∧ (let u := (mid .b32d 0 [0x4D, 0x5A, 0x58, 0x57, 0x36, 0x59]).b32d;
      u.fail = false ∧ u.cnt.toNat = 6 ∧ u.padcnt.toNat = 0)
    ∧ (let u := (mid .b32d 0 [0x4D, 0x59, 0x3D]).b32d;
      u.fail = false ∧ u.cnt.toNat = 2 ∧ 0 < u.padcnt.toNat ∧ u.cnt.toNat + u.padcnt.toNat + 1 ≠ 8)
    ∧ (let u := (mid .b32d 0 [0x4D, 0x59, 0x3D, 0x3D, 0x3D, 0x3D, 0x3D, 0x3D]).b32d;
      u.fail = false ∧ u.closed = true) := by decide

theorem test_witness_b16d_arms :
    (let u := (mid .b16d 0 [0x30]).b16d;
      u.pos.toNat = 1 ∧ u.first0 = true ∧ u.haveHi = true ∧ u.fail = false)
    ∧ (let u := (mid .b16d 0 [0x31]).b16d;
      u.pos.toNat = 1 ∧ u.first0 = false ∧ d16 0x66 ≠ 255)
    ∧ (let u := (mid .b16d 0 []).b16d;
      u.pos.toNat = 0 ∧ u.haveHi = false ∧ d16 0x78 = 255 ∧ isWs 0x78 = false) := by decide

theorem test_witness_decoders_may_start :
    State.reset.canStart .b64d ∧ State.reset.canStart .b32d ∧ State.reset.canStart .b16d
    ∧ floored.canStart .b32d ∧ floored.params.admits 8 = true := by decide

theorem test_witness_dec64_and_not :
    DecodesTo64 0 [0x5A, 0x67, 0x3D, 0x3D] [0x66]
    ∧ DecodesTo64 1 [0x5A, 0x67] [0x66] :=
  ⟨⟨[], [([0x5A, 0x67, 0x3D, 0x3D], [])], by decide⟩, ⟨[], [([0x5A, 0x67], [])], by decide⟩⟩

theorem test_witness_dec64_two_groups :
    DecodesTo64 0 [0x0A, 0x5A, 0x6D, 0x39, 0x76, 0x20, 0x5A, 0x67, 0x3D, 0x3D, 0x0A] [0x66, 0x6F, 0x6F, 0x66] :=
  ⟨[0x0A], [([0x5A, 0x6D, 0x39, 0x76], [0x20]), ([0x5A, 0x67, 0x3D, 0x3D], [0x0A])], by decide⟩

theorem test_witness_dec32 :
    DecodesTo32 .fail 0 [0x4D, 0x59, 0x3D, 0x3D, 0x3D, 0x3D, 0x3D, 0x3D] [0x66] ∧ DecodesTo32 .fail 1 [0x30, 0x33, 0x76, 0x67] [0, 0xFF]
    ∧ DecodesTo32 .floor 0 [0x4D, 0x5A, 0x58] [0x66] :=
  ⟨⟨[], [([0x4D, 0x59, 0x3D, 0x3D, 0x3D, 0x3D, 0x3D, 0x3D], [])], by decide⟩, ⟨[], [([0x30, 0x33, 0x76, 0x67], [])], by decide⟩,
    ⟨[], [([0x4D, 0x5A, 0x58], [])], by decide⟩⟩

theorem test_witness_dec16 :
    dec16 [0x30, 0x78, 0x36, 0x36, 0x20, 0x36, 0x46] = some [0x66, 0x6F] ∧ dec16 [0x46, 0x46, 0x46] = none
    ∧ dec16 [0x30, 0x30, 0x36, 0x36, 0x67] = none := by decide

theorem test_witness_frame_of_operation :
    ∃ t, exec (.b16encUpper [0xDE]) State.reset = .next t := ⟨_, rfl⟩

theorem test_witness_frame_of_symbol :
    ∃ t, present .b64d (.symbol 0x76) (mid .b64d 0 [0x5A, 0x6D, 0x39]) = .next t := ⟨_, rfl⟩

theorem test_witness_frame_of_end :
    ∃ t, present .b32d .finish (mid .b32d 0 [0x4D, 0x59, 0x3D]) = .next t := ⟨_, rfl⟩

theorem test_witness_same_message :
    State.reset.params = (mid .b16d 0 [0x46]).params ∧ (∃ t, exec (.b64encUrlPad [1]) State.reset = .next t)
    ∧ ∃ t, exec (.b64encUrlPad [1]) (mid .b16d 0 [0x46]) = .next t := ⟨rfl, ⟨_, rfl⟩, ⟨_, rfl⟩⟩

theorem test_witness_commute :
    ∃ s1 t, UnitId.b64e ≠ UnitId.b16d ∧ present .b64e (.start 1) (mid .b16d 0 []) = .next s1
    ∧ present .b16d (.symbol 0x46) s1 = .next t := ⟨_, _, by decide, rfl, rfl⟩

theorem test_witness_failure_list :
    (mid .b64d 0 [0x5A]).b64d.fail = false
    ∧ (∃ t, present .b64d (.symbol 0x20) (mid .b64d 0 [0x5A]) = .next t ∧ t.b64d.fail = true)
    ∧ (mid .b32d 0 [0x4D, 0x5A, 0x58]).b32d.fail = false ∧ State.reset.params.b32OddCount = .fail
    ∧ (∃ t, present .b32d (.symbol 0x3D) (mid .b32d 0 [0x4D, 0x5A, 0x58]) = .next t ∧ t.b32d.fail = true)
    ∧ (mid .b16d 0 [0x30]).b16d.fail = false
    ∧ (∃ t, present .b16d (.symbol 0x78) (mid .b16d 0 [0x30]) = .next t ∧ t.b16d.fail = false)
    ∧ ∃ t, present .b16d (.symbol 0x78) (mid .b16d 0 [0x31]) = .next t ∧ t.b16d.fail = true :=
  ⟨by decide, ⟨_, rfl, by decide⟩, by decide, rfl, ⟨_, rfl, by decide⟩, by decide, ⟨_, rfl, by decide⟩, ⟨_, rfl, by decide⟩⟩

theorem test_witness_failure_at_end :
    (∃ t, present .b64d .finish (mid .b64d 0 [0x5A]) = .next t ∧ t.b64d.port.ok = false)
    ∧ (∃ t, present .b64d .finish (mid .b64d 1 [0x5A, 0x67]) = .next t ∧ t.b64d.port.ok = true)
    ∧ (∃ t, present .b32d .finish (mid .b32d 0 [0x4D]) = .next t ∧ t.b32d.port.ok = false)
    ∧ ∃ t, present .b16d .finish (mid .b16d 0 [0x46]) = .next t ∧ t.b16d.port.ok = false :=
  ⟨⟨_, rfl, by decide⟩, ⟨_, rfl, by decide⟩, ⟨_, rfl, by decide⟩, ⟨_, rfl, by decide⟩⟩

theorem test_witness_failed_units :
    (mid .b64d 0 [0x3D]).running .b64d ∧ (mid .b64d 0 [0x3D]).b64d.fail = true
    ∧ (mid .b32d 0 [0x30]).running .b32d ∧ (mid .b32d 0 [0x30]).b32d.fail = true
    ∧ (mid .b16d 0 [0x67]).running .b16d ∧ (mid .b16d 0 [0x67]).b16d.fail = true := by decide

theorem test_witness_leaves_run :
    ∃ t, step { mid .b64e 0 [1] with script := [.finish .b64e] } = .next t
    ∧ ((mid .b64e 0 [1]).port .b64e).st = .run ∧ (t.port .b64e).st ≠ .run := ⟨_, rfl, by decide, by decide⟩

theorem test_witness_result_changes :
    ∃ t, step (about (.line 0b00010 [0x66])) = .next t
    ∧ (t.port .b64e).out ≠ ((about (.line 0b00010 [0x66])).port .b64e).out := ⟨_, rfl, by decide⟩

theorem test_witness_host_reads :
    ((State.reset.applyStart .b16e 0).applySymbol .b16e 0xDE |>.applyFinish .b16e).b16e.port.out = [0x64, 0x65]
    ∧ (State.reset.port .b16e).wasReset = true ∧ (State.reset.port .b16e).out.length ≤ 0 := by decide

theorem test_witness_rom_step :
    ∃ t, step (about (.reset .b64e)) = .next t ∧ Space.isRom .d64 = true := ⟨_, rfl, rfl⟩

theorem test_witness_rom_entries :
    d64 0 0x41 ≠ 255 ∧ d32 1 0x76 ≠ 255 ∧ d16 0x66 ≠ 255 ∧ d16 0x46 ≠ 255 := by decide

theorem test_witness_pack_of_short_group :
    pack64 0xFF 0xF0 0 = [63, 63, 0, 0] ∧ pack64 0xFF 0 0 = [63, 48, 0, 0]
    ∧ pack32 0x66 0x6F 0x6F 0x62 0 = [12, 25, 23, 22, 30, 24, 16, 0] ∧ pack32 0x66 0x6F 0x6F 0 0 = [12, 25, 23, 22, 30, 0, 0, 0]
    ∧ pack32 0x66 0x6F 0 0 0 = [12, 25, 23, 16, 0, 0, 0, 0] ∧ pack32 0x66 0 0 0 0 = [12, 24, 0, 0, 0, 0, 0, 0] :=
  by decide

theorem test_witness_fill_bits :
    (bounded 10).canStart .b64d ∧ (bounded 10).params.admits (4 + 4 + 2) = true ∧ wsRun [0x20, 0x0A] = true
    ∧ (([0x5A] : List Byte).length, (0x0F : Byte)) ∈ [(1, 0x0F), (2, 0x03)] ∧ dataRun64 1 ([0x5A] ++ [0x67, 0x68]) = true
    ∧ d64 1 0x67 ||| 0x0F = d64 1 0x68 ||| 0x0F ∧ (([0x5A, 0x6D] : List Byte).length, (0x03 : Byte)) ∈ [(1, 0x0F), (2, 0x03)]
    ∧ (mid .b64d 1 [0x5A, 0x6D, 0x39, 0x76]).b64d.cnt = 0 ∧ (mid .b64d 1 [0x5A, 0x6D, 0x39, 0x76]).b64d.padcnt = 0
    ∧ (mid .b64d 1 [0x5A, 0x6D, 0x39, 0x76]).b64d.closed = false ∧ (mid .b64d 1 [0x5A, 0x6D, 0x39, 0x76]).b64d.fail = false :=
  by decide

theorem test_witness_fill_bits_32 :
    floored.canStart .b32d ∧ floored.params.admits (0 + 8 + 0) = true
    ∧ (([0x4D] : List Byte).length, (0x03 : Byte)) ∈ [(1, 0x03), (3, 0x0F), (4, 0x01), (6, 0x07)]
    ∧ (([0x4D, 0x5A, 0x58, 0x57, 0x36, 0x59] : List Byte).length, (0x07 : Byte)) ∈ [(1, 0x03), (3, 0x0F), (4, 0x01), (6, 0x07)]
    ∧ dataRun32 0 ([0x4D] ++ [0x59, 0x7A]) = true ∧ d32 0 0x59 ||| 0x03 = d32 0 0x7A ||| 0x03
    ∧ (mid .b32d 0 []).b32d.cnt = 0 ∧ (mid .b32d 0 []).b32d.padcnt = 0 ∧ (mid .b32d 0 []).b32d.closed = false
    ∧ (mid .b32d 0 []).b32d.fail = false := by decide

theorem test_witness_round_trips :
    State.reset.canStart .b64e ∧ State.reset.canStart .b64d ∧ State.reset.canStart .b32e ∧ State.reset.canStart .b32d
    ∧ State.reset.canStart .b16e ∧ State.reset.canStart .b16d ∧ (bounded 8).params.admits (8 * ((3 + 4) / 5)) = true
    ∧ [1, 2, 3].length % 3 = 0 ∧ [1, 2].length % 3 ≠ 0 := by decide

theorem test_witness_output_shape :
    (∃ t, exec (.b64encStdPad [0x66]) State.reset = .next t) ∧ (∃ t, exec (.b32encHexPad [0x66]) State.reset = .next t)
    ∧ ∃ t, exec (.b16encLower [0x66]) State.reset = .next t := ⟨⟨_, rfl⟩, ⟨_, rfl⟩, ⟨_, rfl⟩⟩

theorem test_witness_ignores_case :
    (∃ t, exec (.b32decStd [0x6D, 0x59]) State.reset = .next t) ∧ (∃ t, exec (.b32decHex [0x63, 0x4F]) State.reset = .next t)
    ∧ ∃ t, exec (.b16dec [0x30, 0x78, 0x64, 0x45]) State.reset = .next t := ⟨⟨_, rfl⟩, ⟨_, rfl⟩, ⟨_, rfl⟩⟩

theorem test_witness_keeps_order :
    ([0xC8] : List Byte).length = ([0xD0] : List Byte).length ∧ ([0xC8] : List Byte) < [0xD0]
    ∧ State.reset.canStart .b32e ∧ State.reset.params.admits ([0xC8] : List Byte).length = true := by decide

theorem test_witness_whitespace_on_boundary :
    State.reset.canStart .b64d ∧ wsRun [0x20, 0x0A] = true ∧ [0x20, 0x0A] ≠ ([] : List Byte)
    ∧ (mid .b64d 0 [0x5A, 0x67, 0x3D, 0x3D]).b64d.cnt = 0 ∧ (mid .b64d 0 [0x5A, 0x67, 0x3D, 0x3D]).b64d.padcnt = 0
    ∧ State.reset.canStart .b32d ∧ (mid .b32d 1 []).b32d.cnt = 0 ∧ (mid .b32d 1 []).b32d.padcnt = 0 := by decide

theorem test_witness_whitespace_elsewhere :
    ¬ ((mid .b64d 0 [0x5A]).b64d.cnt = 0 ∧ (mid .b64d 0 [0x5A]).b64d.padcnt = 0)
    ∧ ¬ ((mid .b32d 1 [0x43, 0x4F, 0x3D]).b32d.cnt = 0 ∧ (mid .b32d 1 [0x43, 0x4F, 0x3D]).b32d.padcnt = 0) := by decide

theorem test_witness_whitespace_16 :
    State.reset.canStart .b16d ∧ wsRun [0x0D, 0x0A] = true ∧ 2 ≤ ([0x30, 0x78] : List Byte).length
    ∧ hasPrefix16 ([0x30] ++ [0x36]) = false := by decide

theorem test_witness_prefix_16 :
    State.reset.canStart .b16d ∧ hasPrefix16 [0x36, 0x36] = false ∧ hasPrefix16 [0x30, 0x58, 0x36] = true
    ∧ ∃ c ∈ (if hasPrefix16 [0x30, 0x36, 0x78] then ([0x30, 0x36, 0x78] : List Byte).drop 2 else [0x30, 0x36, 0x78]), c = 0x78 ∨ c = 0x58 :=
  ⟨by decide, by decide, by decide, 0x78, by decide, .inl rfl⟩

theorem test_witness_empty_message :
    (Instr.b32encStdPad []).message = [] ∧ State.reset.canStart (Instr.b32encStdPad []).unit := by decide

theorem test_witness_pseudo :
    ({ State.reset with script := pseudoActions .b32validHex [0x43, 0x4F] ++ [] } : State).script
      = pseudoActions .b32validHex [0x43, 0x4F] ++ []
    ∧ State.reset.canStart (expandPseudo .b32validHex [0x43, 0x4F]).unit
    ∧ keepsOnlyOk .b32validHex = true ∧ keepsOnlyOk .b16enc = false := by decide

/-- `MY=` taken by B32D, and one more `=` to come. -/
def paddingB32d : State := { mid .b32d 0 [0x4D, 0x59, 0x3D] with script := [.symbol .b32d 0x3D] }

/-- Four bytes taken by B64E, and END to come. -/
def endingB64e : State := { mid .b64e 2 [1, 2, 3, 4] with script := [.finish .b64e] }

theorem test_witness_sound :
    paddingB32d.Sound ∧ ∃ t, step paddingB32d = .next t :=
  ⟨⟨fun _ => by decide, fun _ => by decide, fun _ => by decide,
    fun _ => by decide, fun _ => by decide, fun _ => by decide⟩, _, rfl⟩

theorem test_witness_lengths_hold :
    endingB64e.LengthsHold ∧ ∃ t, step endingB64e = .next t :=
  ⟨⟨fun _ => by decide, fun _ => by decide, fun _ => by decide,
    fun _ => by decide, fun _ => by decide, fun _ => by decide⟩, _, rfl⟩

end Sys2Proof.Tests
end

section
/-! SUPPORT. Two facts every invariant of the block is proved through: `END` rewrites nothing but the common registers of its
unit, and what every accepted event keeps, every step keeps. -/

namespace Sys2Proof.Machine

open Sys2Proof

/-- The state with the common registers of one unit replaced. -/
def State.withPort (u : UnitId) (q : Port) (s : State) : State :=
  match u with
  | .b64e => { s with b64e.port := q }
  | .b64d => { s with b64d.port := q }
  | .b32e => { s with b32e.port := q }
  | .b32d => { s with b32d.port := q }
  | .b16e => { s with b16e.port := q }
  | .b16d => { s with b16d.port := q }

@[simp] theorem withPort_port (u : UnitId) (q : Port) (s : State) : (s.withPort u q).port u = q := by
  cases u <;> rfl

/-- The registers of a unit after its `RESET` (10_state.md R50, column "after RESET"). -/
theorem applyReset_file (u : UnitId) (s : State) : (s.applyReset u).file u = zeroFile u Port.reset := by
  cases u <;> rfl

/-- The registers of a unit after its `START(cfg)` (10_state.md R50, column "after START"). -/
theorem applyStart_file (u : UnitId) (cfg : Cfg) (s : State) :
    (s.applyStart u cfg).file u = zeroFile u ((s.port u).onStart cfg) := by
  cases u <;> rfl

/-- What `END` can leave in the common registers `p` of a unit: an encoder commits `OBUF` and its tail (41_base64.md R142), a
decoder commits its bytes or shows the failure (R153). -/
inductive Port.EndsAs (p : Port) : Port → Prop where
  | encoder (tail : List Byte) : p.EndsAs (p.finishEncoder tail)
  | success (bytes : List Byte) : p.EndsAs (p.succeed bytes)
  | failure : p.EndsAs p.failAtEnd

/-- `END` changes the common registers of its unit only, so every working register keeps its value (95_test_vectors.md
section 4; log entry 11). -/
theorem applyFinish_eq_withPort (u : UnitId) (s : State) :
    ∃ q, s.applyFinish u = s.withPort u q ∧ (s.port u).EndsAs q := by
  cases u with
  | b64e => exact ⟨_, rfl, .encoder s.b64e.tail⟩
  | b32e => exact ⟨_, rfl, .encoder s.b32e.tail⟩
  | b16e => exact ⟨_, rfl, .encoder []⟩
  | b64d =>
    simp only [State.applyFinish, State.withPort, State.port, B64D.finish]
    split_ifs
    · exact ⟨_, rfl, .failure⟩
    · exact ⟨_, rfl, .failure⟩
    · exact ⟨_, rfl, .success _⟩
    · exact ⟨_, rfl, .success _⟩
    · exact ⟨_, rfl, .success _⟩
    · exact ⟨_, rfl, .failure⟩
  | b32d =>
    simp only [State.applyFinish, State.withPort, State.port, B32D.finish]
    split_ifs
    · exact ⟨_, rfl, .failure⟩
    · exact ⟨_, rfl, .failure⟩
    · exact ⟨_, rfl, .success _⟩
    · cases usable32 s.params.b32OddCount s.b32d.cnt.toNat with
      | some k => exact ⟨_, rfl, .success _⟩
      | none => exact ⟨_, rfl, .failure⟩
  | b16d =>
    simp only [State.applyFinish, State.withPort, State.port, B16D.finish]
    split_ifs
    · exact ⟨_, rfl, .failure⟩
    · exact ⟨_, rfl, .success _⟩

section Preserved

/-- A property of the block that every accepted event keeps and that does not speak of the host's script, last read or count of
undefined reads. -/
structure KeptByEvents (P : State → Prop) : Prop where
  event : ∀ {u : UnitId} {e : Event} {s : State}, refusalOf u e s = none → P s → P (s.apply u e)
  host : ∀ {s : State} (acts : List HostAction) (r : Option ReadValue) (n : Nat), P s →
    P { s with script := acts, lastRead := r, undefinedReads := n }

variable {P : State → Prop} (hP : KeptByEvents P)
include hP

theorem KeptByEvents.present {u : UnitId} {e : Event} {s t : State} (h : present u e s = .next t) (hs : P s) : P t := by
  obtain ⟨hr, rfl⟩ := present_eq_next.1 h
  exact hP.event hr hs

theorem KeptByEvents.presentAll {u : UnitId} {message : List Byte} {s t : State}
    (h : presentAll u message s = .next t) (hs : P s) : P t := by
  induction message generalizing s with
  | nil =>
    injection h with h
    exact h ▸ hs
  | cons x rest ih =>
    obtain ⟨s1, h1, h2⟩ := andThen_eq_next h
    exact ih h2 (hP.present h1 hs)

/-- An operation is a sequence of accepted events (10_state.md R24). -/
theorem KeptByEvents.exec {i : Instr} {s t : State} (h : exec i s = .next t) (hs : P s) : P t := by
  rw [exec_eq_transact] at h
  obtain ⟨s1, h1, h⟩ := andThen_eq_next h
  obtain ⟨s2, h2, h3⟩ := andThen_eq_next h
  exact hP.present h3 (hP.presentAll h2 (hP.present h1 hs))

/-- What every accepted event keeps, every step keeps. -/
theorem KeptByEvents.step {s t : State} (h : step s = .next t) (hs : P s) : P t := by
  cases hscript : s.script with
  | nil =>
    rw [step_nil hscript] at h
    injection h with h
    exact h ▸ hs
  | cons a rest =>
    rw [step_cons hscript] at h
    have hs' : P { s with script := rest } := hP.host rest s.lastRead s.undefinedReads hs
    rcases act_inv h with ⟨u, e, hr, rfl, -⟩ | ⟨i, -, hi⟩ | ⟨u, r, v, n, -, rfl⟩
    · exact hP.event hr hs'
    · exact hP.exec hi hs'
    · exact hP.host rest (some v) n hs'

end Preserved

end Sys2Proof.Machine
end

section
/-! SUPPORT. The invariant `State.Sound`, unit by unit: what holds of the common registers and what holds of the working ones. -/

namespace Sys2Proof.Machine

open Sys2Proof

/-- What `B64D.Sound` says of the working registers (10_state.md R27). -/
def B64D.WorkSound (u : B64D) : Prop := (u.padcnt ≠ 0 → u.cnt = 2) ∧ (u.closed = true → u.cnt = 0 ∧ u.padcnt = 0)

/-- What `B32D.Sound` says of the working registers (10_state.md R29). -/
def B32D.WorkSound (odd : OddCount) (u : B32D) : Prop :=
  u.cnt.toNat + u.padcnt.toNat ≤ 7 ∧ (u.padcnt ≠ 0 → (usable32 odd u.cnt.toNat).isSome = true)
    ∧ (u.closed = true → u.cnt = 0 ∧ u.padcnt = 0)

/-- What `B16D.Sound` says of the working registers (10_state.md R32). -/
def B16D.WorkSound (u : B16D) : Prop := u.pos.toNat = min u.port.sent 2 ∧ (u.first0 = true → u.port.sent ≠ 0)

/-- What the soundness of a unit says beside that of its common registers. -/
def State.WorkSound (u : UnitId) (s : State) : Prop :=
  match u with
  | .b64e => s.b64e.cnt.toNat ≤ 2 ∧ (s.b64e.port.st = .done → s.b64e.port.ok = true)
  | .b64d => s.b64d.WorkSound
  | .b32e => s.b32e.cnt.toNat ≤ 4 ∧ (s.b32e.port.st = .done → s.b32e.port.ok = true)
  | .b32d => s.b32d.WorkSound s.params.b32OddCount
  | .b16e => s.b16e.port.st = .done → s.b16e.port.ok = true
  | .b16d => s.b16d.WorkSound

/-- One unit is sound. -/
def State.UnitSound (u : UnitId) (s : State) : Prop := (s.port u).Sound u s.params ∧ s.WorkSound u

theorem sound_iff {s : State} : s.Sound ↔ ∀ u, (s.port u).wasReset = true → s.UnitSound u := by
  constructor
  · rintro ⟨h1, h2, h3, h4, h5, h6⟩ u
    cases u with
    | b64e => exact h1
    | b64d => exact h2
    | b32e => exact h3
    | b32d => exact h4
    | b16e => exact h5
    | b16d => exact h6
  · exact fun h => ⟨h .b64e, h .b64d, h .b32e, h .b32d, h .b16e, h .b16d⟩

/-- The soundness of a unit depends on its registers and the parameters only. -/
theorem unitSound_congr {u : UnitId} {s t : State} (hp : s.params = t.params) (hf : s.file u = t.file u) :
    s.UnitSound u ↔ t.UnitSound u := by
  cases u <;> simp_all [State.UnitSound, State.WorkSound, State.port, State.file]

section Symbol

theorem B64E.symbol_cnt_le (x : Byte) (u : B64E) : (B64E.symbol x u).cnt.toNat ≤ 2 := by
  unfold B64E.symbol
  split
  · simp only
    bv_omega
  · simp

theorem B32E.symbol_cnt_le (x : Byte) (u : B32E) : (B32E.symbol x u).cnt.toNat ≤ 4 := by
  unfold B32E.symbol
  split
  · simp only
    bv_omega
  · simp

/-- A `=` that does not complete a group of B64D comes after exactly two data symbols (41_base64.md R151). -/
theorem B64D.symbol_workSound (x : Byte) {u : B64D} (h : u.WorkSound) : (B64D.symbol x u).WorkSound := by
  have keep (c : Cause) : (u.raise c).WorkSound := h
  obtain ⟨hpad, hclosed⟩ := h
  unfold B64D.symbol
  split_ifs with _ _ _ hcl _ hlt hfull _ hpend hcnt
  · exact ⟨hpad, hclosed⟩
  · exact ⟨hpad, hclosed⟩
  · exact keep _
  · exact keep _
  · exact keep _
  · exact ⟨fun h => absurd rfl h, fun _ => ⟨rfl, rfl⟩⟩
  · exact ⟨fun _ => by bv_omega, fun h => absurd h hcl⟩
  · exact keep _
  · exact keep _
  · exact ⟨fun h => absurd h hpend, fun h => absurd h hcl⟩
  · exact ⟨fun h => absurd h hpend, fun h => absurd h hcl⟩

/-- A `=` that does not complete a group of B32D keeps `CNT`, and a data symbol is taken only while there is no padding
(42_base32.md R181). -/
theorem B32D.symbol_workSound (odd : OddCount) (x : Byte) {u : B32D} (h : u.WorkSound odd) :
    (B32D.symbol odd x u).WorkSound odd := by
  have keep (c : Cause) : (u.raise c).WorkSound odd := h
  obtain ⟨hsum, hpad, hclosed⟩ := h
  unfold B32D.symbol
  split_ifs with _ _ _ hcl _ hlt hfull _ hpend hcnt
  · exact ⟨hsum, hpad, hclosed⟩
  · exact ⟨hsum, hpad, hclosed⟩
  · exact keep _
  · exact keep _
  · exact keep _
  · split
    · exact keep _
    · exact ⟨by simp, fun h => absurd rfl h, fun _ => ⟨rfl, rfl⟩⟩
  · split
    · exact keep _
    · next k hk =>
      refine ⟨?_, fun _ => by simp [hk], fun h => absurd h hcl⟩
      simp only
      bv_omega
  · exact keep _
  · exact keep _
  · exact ⟨by simp_all, fun h => absurd h hpend, fun h => absurd h hcl⟩
  · refine ⟨?_, fun h => absurd h hpend, fun h => absurd h hcl⟩
    simp only
    bv_omega

/-- `POS` counts the symbol, and only the first one can set `FIRST0` (43_base16.md R205). -/
theorem B16D.symbol_workSound (x : Byte) {u : B16D} (h : u.WorkSound) :
    (B16D.symbol x { u with port := u.port.count }).WorkSound := by
  obtain ⟨hpos, -⟩ := h
  have hadv : (B16D.advance x { u with port := u.port.count }).WorkSound := by
    refine ⟨?_, fun _ => Nat.succ_ne_zero _⟩
    change (BitVec.ofNat 2 (min (u.pos.toNat + 1) 2)).toNat = min (u.port.sent + 1) 2
    rw [hpos, BitVec.toNat_ofNat]
    omega
  unfold B16D.symbol
  split_ifs <;> exact hadv

end Symbol

section Registers

variable {u : UnitId} {s : State}

theorem startReserved_zero (u : UnitId) : startReserved u 0 = none := by
  cases u <;> rfl

/-- The common registers after `RESET` or `START(cfg)` are sound. -/
theorem Port.sound_of_cleared {p : Params} {q : Port} (hc : startReserved u q.cfg = none) (hok : q.ok = false)
    (hout : q.out = []) (hsent : q.sent = 0) : q.Sound u p :=
  ⟨fun _ => ⟨hok, hout⟩, fun _ => hout, hc, by rw [hsent, admits_zero]⟩

theorem workSound_of_cleared {q : Port} (hfile : s.file u = zeroFile u q) (hst : q.st ≠ .done) (hsent : q.sent = 0) :
    s.WorkSound u := by
  cases u <;>
    simp_all [State.file, zeroFile, State.WorkSound, B64D.WorkSound, B32D.WorkSound, B16D.WorkSound]

theorem applyReset_unitSound (u : UnitId) (s : State) : (s.applyReset u).UnitSound u := by
  constructor
  · rw [applyReset_port]
    exact Port.sound_of_cleared (startReserved_zero u) rfl rfl rfl
  · exact workSound_of_cleared (applyReset_file u s) (by decide) rfl

theorem applyStart_unitSound {cfg : Cfg} (hc : startReserved u cfg = none) (s : State) :
    (s.applyStart u cfg).UnitSound u := by
  constructor
  · rw [applyStart_port]
    exact Port.sound_of_cleared hc rfl rfl rfl
  · exact workSound_of_cleared (applyStart_file u cfg s) (by simp) rfl

theorem applySymbol_unitSound (x : Byte) (hrun : (s.port u).st = .run)
    (hfits : s.params.admits ((s.port u).sent + 1) = true) (h : s.UnitSound u) : (s.applySymbol u x).UnitSound u := by
  obtain ⟨⟨hshown, -, hcfg, -⟩, hwork⟩ := h
  obtain ⟨hok, hout⟩ := hshown (by simp [hrun])
  constructor
  · obtain ⟨ys, hport⟩ := applySymbol_port u x s
    rw [hport, applySymbol_params]
    exact ⟨fun _ => ⟨hok, hout⟩, fun _ => hout, hcfg, hfits⟩
  · have hst : ((s.applySymbol u x).port u).st ≠ .done := by simp [applySymbol_st, hrun]
    cases u with
    | b64e => exact ⟨B64E.symbol_cnt_le x _, fun h => absurd h hst⟩
    | b64d => exact B64D.symbol_workSound x (u := { s.b64d with port := s.b64d.port.count }) hwork
    | b32e => exact ⟨B32E.symbol_cnt_le x _, fun h => absurd h hst⟩
    | b32d => exact B32D.symbol_workSound _ x (u := { s.b32d with port := s.b32d.port.count }) hwork
    | b16e => exact fun h => absurd h hst
    | b16d => exact B16D.symbol_workSound x hwork

/-- `END` shows a result only together with `OK`. -/
theorem Port.EndsAs.sound {p q : Port} {par : Params} (h : p.EndsAs q) (hp : p.Sound u par) : q.Sound u par := by
  obtain ⟨-, -, hcfg, hsent⟩ := hp
  cases h with
  | encoder tail => exact ⟨fun h => absurd rfl h, fun h => by simp at h, hcfg, hsent⟩
  | success bytes => exact ⟨fun h => absurd rfl h, fun h => by simp at h, hcfg, hsent⟩
  | failure => exact ⟨fun h => absurd rfl h, fun _ => rfl, hcfg, hsent⟩

theorem applyFinish_unitSound (h : s.UnitSound u) : (s.applyFinish u).UnitSound u := by
  obtain ⟨hport, hwork⟩ := h
  obtain ⟨q, hq, hends⟩ := applyFinish_eq_withPort u s
  constructor
  · rw [applyFinish_params, hq, withPort_port]
    exact hends.sound hport
  · cases u with
    | b64e => exact ⟨hwork.1, fun _ => rfl⟩
    | b64d => rw [hq]; exact hwork
    | b32e => exact ⟨hwork.1, fun _ => rfl⟩
    | b32d => rw [hq]; exact hwork
    | b16e => exact fun _ => rfl
    | b16d =>
      rw [hq]
      have hsent : q.sent = s.b16d.port.sent := by cases hends <;> rfl
      simpa [State.WorkSound, B16D.WorkSound, State.withPort, hsent] using hwork

end Registers

/-- An accepted event leaves its unit sound, and every other unit as it was. -/
theorem sound_keptByEvents : KeptByEvents State.Sound where
  event {w e s} hr h := by
    rw [sound_iff] at h ⊢
    intro u hu
    by_cases huw : u = w
    · subst huw
      cases e with
      | reset => exact applyReset_unitSound u s
      | start cfg => exact applyStart_unitSound (refusalOf_start.1 hr).1 s
      | symbol x =>
        obtain ⟨hwas, hrun, hfits⟩ := refusalOf_symbol.1 hr
        exact applySymbol_unitSound x hrun hfits (h u hwas)
      | finish => exact applyFinish_unitSound (h u (refusalOf_finish.1 hr).1)
    · rw [unitSound_congr (apply_params s w e) (apply_file_of_ne s w e huw)]
      exact h u (by rwa [apply_port_of_ne s w e huw] at hu)
  host _ _ _ h := h

/-- Settles O50: every accepted event keeps the soundness of each unit, and a step is a sequence of accepted events. -/
theorem stepKeepsSound : Obligations.StepKeepsSound :=
  fun _ _ hs h => sound_keptByEvents.step h hs

/-- Settles O49: every unit of the reset state is as its own `RESET` leaves it. -/
theorem resetIsSound : Obligations.ResetIsSound := by
  refine sound_iff.2 fun u _ => ?_
  have hreset : State.reset.applyReset u = State.reset := by cases u <;> rfl
  exact hreset ▸ applyReset_unitSound u State.reset

end Sys2Proof.Machine
end

section
/-! SUPPORT. Frames: which registers an event leaves as they were, and which bytes read as before. -/

namespace Sys2Proof.Machine

open Sys2Proof

section Memory

variable {s t : State} {sp : Space}

/-- A byte of a space depends on the one sequence the space names; a ROM depends on no register. -/
theorem memRead_congr (hobuf : ∀ w, sp = .obuf w → (t.port w).obuf = (s.port w).obuf)
    (hout : ∀ w, sp = .out w → (t.port w).out = (s.port w).out) (a : Nat) : memRead t sp a = memRead s sp a := by
  cases sp with
  | obuf w => simp only [memRead, hobuf w rfl]
  | out w => simp only [memRead, hout w rfl]
  | e64 => rfl
  | d64 => rfl
  | e32 => rfl
  | d32 => rfl
  | e16 => rfl
  | d16 => rfl

/-- No change of state changes a ROM entry (10_state.md R50; 20_memory.md R60). -/
theorem memRead_rom (h : sp.isRom = true) (s t : State) (a : Nat) : memRead t sp a = memRead s sp a :=
  memRead_congr (fun w hw => by simp [hw, Space.isRom] at h) (fun w hw => by simp [hw, Space.isRom] at h) a

end Memory

section Growth

theorem pack64_length (b1 b2 b3 : Byte) : (pack64 b1 b2 b3).length = 4 := rfl

theorem pack32_length (b1 b2 b3 b4 b5 : Byte) : (pack32 b1 b2 b3 b4 b5).length = 8 := rfl

theorem unpack64_length_le (v1 v2 v3 v4 : Digit64) (k : Nat) : (unpack64 v1 v2 v3 v4 k).length ≤ 3 := by
  simp only [unpack64]
  split_ifs <;> simp

theorem unpack32_length_le (c1 c2 c3 c4 c5 c6 c7 c8 : Digit32) (k : Nat) :
    (unpack32 c1 c2 c3 c4 c5 c6 c7 c8 k).length ≤ 5 := by
  simp only [unpack32]
  split_ifs <;> simp

theorem B64E.symbol_obuf (x : Byte) (u : B64E) :
    ∃ ys, (B64E.symbol x u).port.obuf = u.port.obuf ++ ys ∧ (ys.length = 0 ∨ ys.length = 4) := by
  unfold B64E.symbol
  split
  · exact ⟨[], by simp, .inl rfl⟩
  · exact ⟨_, rfl, .inr (by simp [pack64_length])⟩

theorem B32E.symbol_obuf (x : Byte) (u : B32E) :
    ∃ ys, (B32E.symbol x u).port.obuf = u.port.obuf ++ ys ∧ (ys.length = 0 ∨ ys.length = 8) := by
  unfold B32E.symbol
  split
  · exact ⟨[], by simp, .inl rfl⟩
  · exact ⟨_, rfl, .inr (by simp [pack32_length])⟩

theorem B64D.symbol_obuf (x : Byte) (u : B64D) :
    ∃ ys, (B64D.symbol x u).port.obuf = u.port.obuf ++ ys ∧ ys.length ≤ 3 := by
  have same : ∃ ys, u.port.obuf = u.port.obuf ++ ys ∧ ys.length ≤ 3 := ⟨[], by simp, by simp⟩
  unfold B64D.symbol
  split_ifs
  any_goals exact same
  · exact ⟨_, rfl, unpack64_length_le ..⟩
  · exact ⟨_, rfl, unpack64_length_le ..⟩

theorem B32D.symbol_obuf (odd : OddCount) (x : Byte) (u : B32D) :
    ∃ ys, (B32D.symbol odd x u).port.obuf = u.port.obuf ++ ys ∧ ys.length ≤ 5 := by
  have same : ∃ ys, u.port.obuf = u.port.obuf ++ ys ∧ ys.length ≤ 5 := ⟨[], by simp, by simp⟩
  unfold B32D.symbol
  repeat' split
  any_goals exact same
  · exact ⟨_, rfl, unpack32_length_le ..⟩
  · exact ⟨_, rfl, unpack32_length_le ..⟩

theorem B16D.symbol_obuf (x : Byte) (u : B16D) :
    ∃ ys, (B16D.symbol x u).port.obuf = u.port.obuf ++ ys ∧ ys.length ≤ 1 := by
  have same : ∃ ys, u.port.obuf = u.port.obuf ++ ys ∧ ys.length ≤ 1 := ⟨[], by simp, by simp⟩
  unfold B16D.symbol
  split_ifs
  any_goals exact same
  exact ⟨_, rfl, by simp⟩

end Growth

/-- Settles O4: the grounds of a refusal, and what each event leaves in `ST`. -/
theorem protocolTableHolds : Obligations.ProtocolTableHolds := by
  intro u e s hw
  have accepted : (∃ t, present u e s = .next t) ↔ refusalOf u e s = none := by simp [present_eq_next]
  refine ⟨?_, fun t h => ?_, fun hno => ?_⟩
  · rw [accepted]
    cases e with
    | reset => simp [refusalOf_reset]
    | start cfg => simp [refusalOf_start, hw]
    | symbol x => simp [refusalOf_symbol, hw]
    | finish => simp [refusalOf_finish, hw]
  · obtain ⟨hr, rfl⟩ := present_eq_next.1 h
    cases e with
    | reset => exact congrArg Port.st (applyReset_port u s)
    | start cfg => exact congrArg Port.st (applyStart_port u cfg s)
    | symbol x => exact (applySymbol_st u x s).trans (refusalOf_symbol.1 hr).2.1
    | finish => exact (applyFinish_port u s).2.1
  · rcases present_cases u e s with ⟨r, -, h⟩ | ⟨-, h⟩
    · exact ⟨r, h⟩
    · exact absurd ⟨_, h⟩ hno

/-- Settles O20, by the frame of a transaction and what its three kinds of event leave in the common registers. -/
theorem operationTouchesOnlyItsUnit : Obligations.OperationTouchesOnlyItsUnit := by
  intro i s t h
  obtain ⟨hw, -, -, rfl⟩ := exec_inv h
  obtain ⟨hfile, hparams, hscript, hread, hundef⟩ := afterTransaction_frame i.unit i.cfg i.message s
  obtain ⟨hwas, hst, hcfg, hsent⟩ := applyFinish_port i.unit
    (i.message.foldl (fun s x => s.applySymbol i.unit x) (s.applyStart i.unit i.cfg))
  obtain ⟨ys, hsyms⟩ := applySymbols_port i.unit i.message (s.applyStart i.unit i.cfg)
  rw [hsyms, applyStart_port] at hwas hcfg hsent
  refine ⟨hfile, hparams, hscript, hread, hundef, hwas.trans hw, hst, hcfg, hsent.trans (by simp), ?_⟩
  intro sp a hobuf hout
  have hport (w : UnitId) (hne : w ≠ i.unit) := port_congr _ w (hfile w hne)
  refine memRead_congr (fun w hw => ?_) (fun w hw => ?_) a
  · rw [hport w fun h => hobuf (h ▸ hw)]
  · rw [hport w fun h => hout (h ▸ hw)]

/-- Settles O21, by what a `SYMBOL` keeps of the common registers and how far each unit's `OBUF` grows. -/
theorem symbolTouchesOnlyItsUnitAndAppends : Obligations.SymbolTouchesOnlyItsUnitAndAppends := by
  intro u x s t h
  obtain ⟨-, rfl⟩ := present_eq_next.1 h
  obtain ⟨ys, hport⟩ := applySymbol_port u x s
  change (s.apply u (.symbol x)).port u = _ at hport
  refine ⟨fun w hw => apply_file_of_ne s u _ hw, apply_params .., apply_script .., apply_lastRead ..,
    apply_undefinedReads .., by rw [hport], by rw [hport], by rw [hport], by rw [hport], ?_, fun sp a hne => ?_⟩
  · cases u with
    | b64e => exact B64E.symbol_obuf x { s.b64e with port := s.b64e.port.count }
    | b64d => exact B64D.symbol_obuf x { s.b64d with port := s.b64d.port.count }
    | b32e => exact B32E.symbol_obuf x { s.b32e with port := s.b32e.port.count }
    | b32d => exact B32D.symbol_obuf _ x { s.b32d with port := s.b32d.port.count }
    | b16e => exact ⟨_, rfl, rfl⟩
    | b16d => exact B16D.symbol_obuf x { s.b16d with port := s.b16d.port.count }
  · refine memRead_congr (fun w hw => ?_) (fun w _ => ?_) a
    · rw [apply_port_of_ne s u _ fun h => hne (h ▸ hw)]
    · by_cases hwu : w = u
      · rw [hwu, hport]
      · rw [apply_port_of_ne s u _ hwu]

/-- Settles O22: `END` writes the common registers of its unit alone. -/
theorem endKeepsTheWorkingRegisters : Obligations.EndKeepsTheWorkingRegisters := by
  intro u s t h
  obtain ⟨-, rfl⟩ := present_eq_next.1 h
  obtain ⟨hwas, hst, hcfg, -⟩ := applyFinish_port u s
  refine ⟨fun w hw => apply_file_of_ne s u _ hw, apply_params .., apply_script .., apply_lastRead ..,
    apply_undefinedReads .., hcfg, hwas, hst, ?_⟩
  obtain ⟨q, hq, -⟩ := applyFinish_eq_withPort u s
  change s.apply u .finish = _ at hq
  rw [hq]
  cases u <;> simp [State.withPort]

section Commute

variable {u w : UnitId} (h : u ≠ w) (e f : Event) (s : State)
include h

/-- Why an event of one unit is refused does not depend on events of another. -/
theorem refusalOf_apply_of_ne : refusalOf w f (s.apply u e) = refusalOf w f s :=
  refusalOf_congr (apply_params s u e) (apply_port_of_ne s u e h.symm)

/-- The effects of events of two units commute: each reads and writes its own unit alone (10_state.md R21). -/
theorem apply_comm : (s.apply u e).apply w f = (s.apply w f).apply u e := by
  refine state_ext (fun x => ?_) (by simp) (by simp) (by simp) (by simp)
  by_cases hxw : x = w
  · subst hxw
    rw [apply_file_of_ne _ u e h.symm]
    exact apply_file_congr _ _ _ (apply_params s u e) (apply_file_of_ne s u e h.symm)
  · rw [apply_file_of_ne _ w f hxw]
    by_cases hxu : x = u
    · subst hxu
      exact apply_file_congr _ _ _ (apply_params s w f).symm (apply_file_of_ne s w f h).symm
    · rw [apply_file_of_ne _ u e hxu, apply_file_of_ne _ u e hxu, apply_file_of_ne _ w f hxw]

end Commute

/-- Settles O24: neither the grounds of refusal nor the effect of an event depend on another unit. -/
theorem eventsOfDifferentUnitsCommute : Obligations.EventsOfDifferentUnitsCommute := by
  intro u w e f s s1 t hne he hf
  obtain ⟨hre, rfl⟩ := present_eq_next.1 he
  obtain ⟨hrf, rfl⟩ := present_eq_next.1 hf
  rw [refusalOf_apply_of_ne hne] at hrf
  refine ⟨s.apply w f, present_eq_next.2 ⟨hrf, rfl⟩, present_eq_next.2 ⟨?_, apply_comm hne e f s⟩⟩
  rw [refusalOf_apply_of_ne hne.symm, hre]

section Result

variable {u : UnitId} {s t : State}

/-- The result registers of a unit, `OUT` and `OK`, are the same in both states. -/
def SameResult (u : UnitId) (s t : State) : Prop := (t.port u).out = (s.port u).out ∧ (t.port u).ok = (s.port u).ok

theorem SameResult.of_port_eq (h : t.port u = s.port u) : SameResult u s t := ⟨by rw [h], by rw [h]⟩

theorem sameResult_of_other_event {w : UnitId} {e : Event} (hne : u ≠ w) (h : present w e s = .next t) :
    SameResult u s t := by
  obtain ⟨-, rfl⟩ := present_eq_next.1 h
  exact .of_port_eq (apply_port_of_ne s w e hne)

theorem sameResult_of_symbol {w : UnitId} {x : Byte} (h : present w (.symbol x) s = .next t) : SameResult u s t := by
  by_cases hne : u = w
  · subst hne
    obtain ⟨-, rfl⟩ := present_eq_next.1 h
    obtain ⟨ys, hport⟩ := applySymbol_port u x s
    change (s.apply u (.symbol x)).port u = _ at hport
    exact ⟨by rw [hport], by rw [hport]⟩
  · exact sameResult_of_other_event hne h

theorem sameResult_of_other_operation {i : Instr} (hne : u ≠ i.unit) (h : exec i s = .next t) : SameResult u s t := by
  obtain ⟨-, -, -, rfl⟩ := exec_inv h
  obtain ⟨hfile, -⟩ := afterTransaction_frame i.unit i.cfg i.message s
  exact .of_port_eq (port_congr _ u (hfile u hne))

theorem sameResult_of_read {w : UnitId} {r : ReadTarget} (h : readTarget w r s = .next t) : SameResult u s t := by
  obtain ⟨v, n, rfl⟩ := readTarget_inv h
  exact .of_port_eq (by cases u <;> rfl)

end Result

/-- Settles O28, action by action: an action that is none of the listed ones leaves the result registers of the unit. -/
theorem resultChangesOnlyByItsOwnEvents : Obligations.ResultChangesOnlyByItsOwnEvents := by
  intro u s t h hchange
  have changed : ¬ SameResult u s t := fun ⟨hout, hok⟩ => hchange.elim (absurd hout) (absurd hok)
  cases hscript : s.script with
  | nil =>
    rw [step_nil hscript] at h
    injection h with h
    exact absurd (.of_port_eq (h ▸ rfl)) changed
  | cons a rest =>
    rw [step_cons hscript] at h
    have changed' : ¬ SameResult u { s with script := rest } t := by
      simpa only [SameResult, withScript_port] using changed
    refine ⟨rest, ?_⟩
    cases a with
    | reset w =>
      rw [act_reset] at h
      by_cases hw : u = w
      · exact .inr (.inl (by rw [hw]))
      · exact absurd (sameResult_of_other_event hw h) changed'
    | finish w =>
      rw [act_finish] at h
      by_cases hw : u = w
      · exact .inl (by rw [hw])
      · exact absurd (sameResult_of_other_event hw h) changed'
    | symbol w x => exact absurd (sameResult_of_symbol h) changed'
    | read w r => exact absurd (sameResult_of_read h) changed'
    | start opd =>
      simp only [act] at h
      split at h
      · next i hi =>
        by_cases hw : u = i.unit
        · exact .inr (.inr (.inl ⟨opd, rfl, i, hi, hw.symm⟩))
        · exact absurd (sameResult_of_other_event hw h) changed'
      · exact nomatch h
    | line opd m =>
      simp only [act] at h
      split at h
      · next i hi =>
        by_cases hw : u = i.unit
        · exact .inr (.inr (.inr ⟨opd, m, rfl, i, hi, hw.symm⟩))
        · exact absurd (sameResult_of_other_operation hw h) changed'
      · exact nomatch h

end Sys2Proof.Machine
end

section
/-! SUPPORT. Operations against their events (when a message is too long, and a transaction run as single steps), what a step does
with each action of the host, and what a host read gives. -/

namespace Sys2Proof.Machine

open Sys2Proof

section Outcome

variable {u : UnitId} {s : State}

theorem andThen_ne_fault {o : Host.Outcome State Fault Refusal} {k : State → Host.Outcome State Fault Refusal}
    (ho : ∀ f, o ≠ .fault f) (hk : ∀ s f, k s ≠ .fault f) (f : Fault) : andThen o k ≠ .fault f := by
  cases o with
  | next s => exact hk s f
  | fault g => exact absurd rfl (ho g)
  | refused r => exact nofun

theorem present_ne_fault (u : UnitId) (e : Event) (s : State) (f : Fault) : present u e s ≠ .fault f := by
  rcases present_cases u e s with ⟨r, -, h⟩ | ⟨-, h⟩ <;> simp [h]

theorem presentAll_ne_fault (u : UnitId) (message : List Byte) (s : State) (f : Fault) :
    presentAll u message s ≠ .fault f := by
  induction message generalizing s f with
  | nil => exact nofun
  | cons x rest ih => exact andThen_ne_fault (present_ne_fault u _ s) ih f

/-- No operation faults: a decode failure is a next state (60_exceptions.md R255). -/
theorem exec_ne_fault (i : Instr) (s : State) (f : Fault) : exec i s ≠ .fault f := by
  rw [exec_eq_transact]
  exact andThen_ne_fault (present_ne_fault _ _ s)
    (fun s1 => andThen_ne_fault (presentAll_ne_fault _ _ s1) (present_ne_fault _ _)) f

/-- The symbol that would exceed `MAX_LEN` is refused (00_scope.md R9), so is the message it stands in. -/
theorem presentAll_tooLong {message : List Byte} (hw : (s.port u).wasReset = true) (hs : (s.port u).st = .run)
    (hfits : s.params.admits (s.port u).sent = true)
    (hlong : s.params.admits ((s.port u).sent + message.length) = false) :
    presentAll u message s = .refused (.tooLong u) := by
  induction message generalizing s with
  | nil => simp [hfits] at hlong
  | cons x rest ih =>
    cases hx : s.params.admits ((s.port u).sent + 1) with
    | false => simp [presentAll, present, refusalOf, hw, hs, legal, hx]
    | true =>
      have hnext : present u (.symbol x) s = .next (s.applySymbol u x) :=
        present_eq_next.2 ⟨refusalOf_symbol.2 ⟨hw, hs, hx⟩, rfl⟩
      rw [presentAll, hnext, andThen_next]
      refine ih ?_ ?_ ?_ ?_
      · rw [applySymbol_wasReset, hw]
      · rw [applySymbol_st, hs]
      · rw [applySymbol_params, applySymbol_sent, hx]
      · rw [applySymbol_params, applySymbol_sent, Nat.add_assoc, Nat.add_comm 1]
        exact hlong

theorem transact_tooLong {cfg : Cfg} {message : List Byte} (hc : startReserved u cfg = none) (h : s.canStart u)
    (hlong : s.params.admits message.length = false) : transact u cfg message s = .refused (.tooLong u) := by
  obtain ⟨hw, hs⟩ := h
  have hstart : present u (.start cfg) s = .next (s.applyStart u cfg) :=
    present_eq_next.2 ⟨refusalOf_start.2 ⟨hc, hw, hs⟩, rfl⟩
  have hsyms : presentAll u message (s.applyStart u cfg) = .refused (.tooLong u) := by
    apply presentAll_tooLong <;> simp [applyStart_port, hw, hlong]
  rw [transact, hstart, andThen_next, hsyms, andThen_refused]

end Outcome

/-- Settles O10: a transaction goes on exactly where its `START` is accepted and its message fits, and no part of it faults. -/
theorem operationCompletesExactlyWhenAccepted : Obligations.OperationCompletesExactlyWhenAccepted := by
  intro i s
  refine ⟨⟨?_, ?_⟩, fun hstart hlong => ?_, exec_ne_fault i s⟩
  · rintro ⟨t, h⟩
    obtain ⟨hw, hs, hfits, -⟩ := exec_inv h
    exact ⟨⟨hw, hs⟩, hfits⟩
  · rintro ⟨⟨hw, hs⟩, hfits⟩
    exact ⟨_, exec_eq_next hw hs hfits⟩
  · rw [exec_eq_transact]
    exact transact_tooLong (startReserved_cfg i) hstart hlong

section Steps

/-- The first step of a run decides whether the run goes on. -/
theorem run_succ {M : Host.Core} (n : Nat) (s : M.State) (o : Host.Outcome M.State M.Fault M.Refusal) :
    M.step s = o → M.run (n + 1) s = match o with
      | .next t => M.run n t
      | .fault f => .fault f
      | .refused r => .refused r := by
  rintro rfl
  rfl

/-- A run of the machine (`Host.Core.run`), with the model's own types. -/
def steps (n : Nat) (s : State) : Host.Outcome State Fault Refusal := Sys2Proof.core.run n s

theorem steps_succ (n : Nat) (s : State) : steps (n + 1) s = andThen (step s) (steps n) := by
  cases h : step s <;> exact run_succ (M := Sys2Proof.core) n s _ h

/-- The script plays no part in an event and stays as it is. -/
theorem present_withScript (u : UnitId) (e : Event) (s : State) (acts : List HostAction) :
    present u e { s with script := acts } = andThen (present u e s) fun t => .next { t with script := acts } := by
  have hr : refusalOf u e { s with script := acts } = refusalOf u e s := refusalOf_congr rfl (withScript_port s u acts)
  unfold present
  rw [hr, apply_withScript]
  cases refusalOf u e s <;> rfl

/-- A step whose next action presents an event. -/
theorem steps_event {a : HostAction} {u : UnitId} {e : Event} (ha : ∀ s, act a s = present u e s) (n : Nat) (s : State)
    (rest : List HostAction) :
    steps (n + 1) { s with script := a :: rest } =
      andThen (present u e s) fun t => steps n { t with script := rest } := by
  rw [steps_succ, step_cons rfl, ha, present_withScript u e s rest, andThen_assoc]
  rfl

/-- The symbols of a message as single steps. -/
theorem steps_symbols (u : UnitId) (message : List Byte) (n : Nat) (s : State) (rest : List HostAction) :
    steps (message.length + n) { s with script := message.map (HostAction.symbol u) ++ rest } =
      andThen (presentAll u message s) fun t => steps n { t with script := rest } := by
  induction message generalizing s with
  | nil => simp [presentAll]
  | cons x message ih =>
    rw [List.length_cons, Nat.add_right_comm, List.map_cons, List.cons_append, steps_event (act_symbol u x), presentAll,
      andThen_assoc]
    exact congrArg (andThen _) (funext ih)

/-- `START` with the descriptor of an operation is `START` of its unit with its `cfg` (30_encoding.md R120). -/
theorem act_start_encode (i : Instr) (s : State) : act (.start (encode i).1) s = present i.unit (.start i.cfg) s := by
  cases i <;> rfl

/-- The events of an operation as single steps are its transaction (10_state.md R24). -/
theorem steps_eventActions (i : Instr) (s : State) (rest : List HostAction) :
    steps (i.message.length + 2) { s with script := eventActions i ++ rest } =
      andThen (exec i s) fun t => .next { t with script := rest } := by
  rw [eventActions, List.cons_append, List.append_assoc, steps_event (act_start_encode i), exec_eq_transact, transact,
    andThen_assoc]
  refine congrArg (andThen _) (funext fun s1 => ?_)
  rw [steps_symbols i.unit i.message 1, andThen_assoc]
  exact congrArg (andThen _) (funext fun s2 => steps_event (act_finish i.unit) 0 s2 rest)

/-- No operation changes the script. -/
theorem andThen_exec_script (i : Instr) (s : State) :
    (andThen (exec i s) fun t => .next { t with script := s.script }) = exec i s := by
  cases h : exec i s with
  | next t =>
    obtain ⟨-, -, -, rfl⟩ := exec_inv h
    obtain ⟨-, -, hscript, -⟩ := afterTransaction_frame i.unit i.cfg i.message s
    rw [andThen_next, ← hscript]
  | fault f => rfl
  | refused r => rfl

end Steps

/-- Settles O9: the single steps are the operation's transaction, and the transaction leaves the rest of the script. -/
theorem operationIsItsEventsOneByOne : Obligations.OperationIsItsEventsOneByOne := by
  intro i s rest hscript
  calc steps (i.message.length + 2) s
      = steps (i.message.length + 2) { s with script := eventActions i ++ rest } := by rw [← hscript]
    _ = andThen (exec i { s with script := rest }) fun t => .next { t with script := rest } :=
      steps_eventActions i { s with script := rest } rest
    _ = exec i { s with script := rest } := andThen_exec_script i _

theorem act_line {opd : Opd} {m : List Byte} {i : Instr} (h : decode opd m = .ok i) (s : State) :
    act (.line opd m) s = exec i s := by
  simp [act, h]

theorem act_start {opd : Opd} {i : Instr} (h : decode opd [] = .ok i) (s : State) :
    act (.start opd) s = present i.unit (.start i.cfg) s := by
  simp [act, h]

/-- A table word stands for the descriptor in its low bits, with no message (log entry 13). -/
theorem decode_of_decodeTableWord {nbits w : Nat} {i : Instr} (h : decodeTableWord nbits w = some i) :
    decode (descriptorOfWord w) [] = .ok i := by
  unfold decodeTableWord at h
  split at h
  · next j hj => rw [hj, Option.some.inj h]
  · exact nomatch h

/-- Settles O8: a step takes the first action of the script, and `withFetchWord` puts its line there. -/
theorem stepRunsTheDecodedOperation : Obligations.StepRunsTheDecodedOperation := by
  refine ⟨fun s opd m rest i hs hi => ?_, fun s opd rest i hs hi => ?_, fun s u rest hs => ?_, fun s u x rest hs => ?_,
    fun s u rest hs => ?_, fun s hs => step_nil hs, fun s nbits w i hi => ?_⟩
  · rw [step_cons hs, act_line hi]
  · rw [step_cons hs, act_start hi]
  · rw [step_cons hs, act_reset]
  · rw [step_cons hs, act_symbol]
  · rw [step_cons hs, act_finish]
  · have hload : (s.withFetchWord nbits w).script = .line (descriptorOfWord w) [] :: s.script := rfl
    rw [step_cons hload, act_line (decode_of_decodeTableWord hi)]
    rfl

section Reads

@[simp] theorem status_ok (p : Port) : p.status.getLsbD 2 = p.ok := by
  unfold Port.status
  cases p.ok <;> cases p.st <;> rfl

@[simp] theorem status_st (p : Port) : p.status.extractLsb' 0 2 = p.st.bits := by
  unfold Port.status
  cases p.ok <;> cases p.st <;> rfl

theorem readTarget_file {u w : UnitId} {r : ReadTarget} {s t : State} (h : readTarget u r s = .next t) :
    t.file w = s.file w := by
  obtain ⟨v, n, rfl⟩ := readTarget_inv h
  cases w <;> rfl

end Reads

/-- Settles O29: a unit that was reset shows its registers, and a read writes nothing but the host's fields. -/
theorem hostReadsGiveTheRegisters : Obligations.HostReadsGiveTheRegisters := by
  intro u s hw
  refine ⟨⟨(s.port u).status, by simp [readTarget, hw], status_ok _, ?_⟩, by simp [readTarget, hw],
    by simp [readTarget, hw, Port.outLen], by simp [readTarget, hw], fun a y hy => ?_, fun a ha => ?_,
    fun w => by simp [readTarget, hw], fun r t h w => readTarget_file h⟩
  · rw [status_st]
    cases (s.port u).st <;> rfl
  · simp [readTarget, hw, memRead, hy]
  · simp [readTarget, hw, memRead, List.getElem?_eq_none ha]

/-- Settles O51: nothing was sent and nothing is held. -/
theorem resetLengthsHold : Obligations.ResetLengthsHold :=
  ⟨fun _ => by decide, fun _ => by decide, fun _ => by decide, fun _ => by decide, fun _ => by decide, fun _ => by decide⟩

end Sys2Proof.Machine
end

section
/-! SUPPORT. The value cells are never read before they are written (10_state.md R50): registers that agree but for unwritten
cells do the same at every event. -/

namespace Sys2Proof.Machine

open Sys2Proof

section Cells

variable {α : Type} {n : Nat} {v v' : Vector α n}

/-- The cells of a group that have been written, those below `k`, are the same. -/
def SameBelow (k : Nat) (v v' : Vector α n) : Prop := ∀ i : Fin n, i.val < k → v'[i] = v[i]

theorem SameBelow.mono {j k : Nat} (h : SameBelow k v v') (hjk : j ≤ k) : SameBelow j v v' :=
  fun i hi => h i (by omega)

theorem SameBelow.zero : SameBelow 0 v v' := fun _ hi => absurd hi (by omega)

/-- Writing the next cell on both sides. -/
theorem SameBelow.write {k : Nat} (h : SameBelow k v v') (y : α) :
    SameBelow (k + 1) (v.setIfInBounds k y) (v'.setIfInBounds k y) := by
  intro i hi
  simp only [Fin.getElem_fin, Vector.getElem_setIfInBounds]
  split
  · rfl
  · exact h i (by omega)

/-- Unpacking `k` digit values reads the first `k` cells. -/
theorem unpack64_agree {v v' : Vector Digit64 4} {k : Nat} (h : SameBelow k v v') (hk : 2 ≤ k) :
    unpack64 v'[0] v'[1] v'[2] v'[3] k = unpack64 v[0] v[1] v[2] v[3] k := by
  have h0 : v'[0] = v[0] := h 0 (by simp; omega)
  have h1 : v'[1] = v[1] := h 1 (by simp; omega)
  have h2 (h3 : 3 ≤ k) : v'[2] = v[2] := h 2 (by simp; omega)
  have h3 (h4 : k = 4) : v'[3] = v[3] := h 3 (by simp; omega)
  simp only [unpack64, h0, h1]
  split_ifs <;> simp_all

/-- The same for Base32. -/
theorem unpack32_agree {v v' : Vector Digit32 8} {k : Nat} (h : SameBelow k v v') :
    unpack32 v'[0] v'[1] v'[2] v'[3] v'[4] v'[5] v'[6] v'[7] k =
      unpack32 v[0] v[1] v[2] v[3] v[4] v[5] v[6] v[7] k := by
  have cells {j : Nat} (hj : j ≤ 8) (hjk : j ≤ k) (i : Nat) (hi : i < j) : v'[i] = v[i] :=
    h ⟨i, by omega⟩ (by simp only; omega)
  simp only [unpack32]
  refine congrArg₂ _ (congrArg₂ _ (congrArg₂ _ (congrArg₂ _ ?_ ?_) ?_) ?_) ?_
  all_goals refine ite_congr rfl (fun hk => ?_) (fun _ => rfl)
  · simp [cells (by decide) hk]
  · simp [cells (by decide) hk]
  · simp [cells (by decide) hk]
  · simp [cells (by decide) hk]
  · simp [cells (by decide) hk.ge]

/-- `B32_ODD_COUNT` never lets more symbols carry bytes than there are. -/
theorem usable32_le {odd : OddCount} {n k : Nat} (h : usable32 odd n = some k) : k ≤ n := by
  cases odd
  all_goals
    unfold usable32 at h
    split at h <;> grind

end Cells

section Agreement

/-- The registers of two B64E agree but for cells not yet written. -/
def B64E.Agree (u u' : B64E) : Prop := u' = { u with b := u'.b } ∧ SameBelow u.cnt.toNat u.b u'.b

/-- The registers of two B64D agree but for cells not yet written. -/
def B64D.Agree (u u' : B64D) : Prop := u' = { u with v := u'.v } ∧ SameBelow u.cnt.toNat u.v u'.v

/-- The registers of two B32E agree but for cells not yet written. -/
def B32E.Agree (u u' : B32E) : Prop := u' = { u with b := u'.b } ∧ SameBelow u.cnt.toNat u.b u'.b

/-- The registers of two B32D agree but for cells not yet written. -/
def B32D.Agree (u u' : B32D) : Prop := u' = { u with c := u'.c } ∧ SameBelow u.cnt.toNat u.c u'.c

/-- The registers of two B16D agree but for a `HI` that is not held. -/
def B16D.Agree (u u' : B16D) : Prop := u' = { u with hi := u'.hi } ∧ (u.haveHi = true → u'.hi = u.hi)

end Agreement

theorem B64E.symbol_agree (x : Byte) {u u' : B64E} (h : u.Agree u') :
    (B64E.symbol x u).Agree (B64E.symbol x u') := by
  obtain ⟨heq, hcells⟩ := h
  generalize u'.b = b' at heq hcells
  subst heq
  unfold B64E.symbol
  dsimp only
  split_ifs with hlt
  · exact ⟨rfl, (hcells.write x).mono (by dsimp only; bv_omega)⟩
  · have h0 : b'[0] = u.b[0] := hcells 0 (by simp; omega)
    have h1 : b'[1] = u.b[1] := hcells 1 (by simp; omega)
    exact ⟨by simp [h0, h1], .zero⟩

theorem B64E.finish_agree {u u' : B64E} (h : u.Agree u') : u.finish.Agree u'.finish := by
  obtain ⟨heq, hcells⟩ := h
  generalize u'.b = b' at heq hcells
  subst heq
  have htail : B64E.tail { u with b := b' } = u.tail := by
    by_cases hone : u.cnt = 1
    · have h0 : b'[0] = u.b[0] := hcells 0 (by simp [hone])
      simp [B64E.tail, hone, h0]
    · by_cases htwo : u.cnt = 2
      · have h0 : b'[0] = u.b[0] := hcells 0 (by simp [htwo])
        have h1 : b'[1] = u.b[1] := hcells 1 (by simp [htwo])
        simp [B64E.tail, htwo, h0, h1]
      · simp only [B64E.tail, if_neg hone, if_neg htwo]
  exact ⟨by simp [B64E.finish, htail], hcells⟩

theorem B64D.symbol_agree (x : Byte) {u u' : B64D} (h : u.Agree u') :
    (B64D.symbol x u).Agree (B64D.symbol x u') := by
  obtain ⟨heq, hcells⟩ := h
  generalize u'.v = v' at heq hcells
  subst heq
  unfold B64D.symbol
  dsimp only
  split_ifs with _ _ _ _ _ hlt hfull _ _ hcnt
  · exact ⟨rfl, hcells⟩
  · exact ⟨rfl, hcells⟩
  · exact ⟨rfl, hcells⟩
  · exact ⟨rfl, hcells⟩
  · exact ⟨rfl, hcells⟩
  · exact ⟨by simp [unpack64_agree hcells (by omega)], .zero⟩
  · exact ⟨rfl, hcells⟩
  · exact ⟨rfl, hcells⟩
  · exact ⟨rfl, hcells⟩
  · have h0 : v'[0] = u.v[0] := hcells 0 (by simp [hcnt])
    have h1 : v'[1] = u.v[1] := hcells 1 (by simp [hcnt])
    have h2 : v'[2] = u.v[2] := hcells 2 (by simp [hcnt])
    exact ⟨by simp [h0, h1, h2], .zero⟩
  · exact ⟨rfl, (hcells.write _).mono (by dsimp only; bv_omega)⟩

theorem B64D.finish_agree {u u' : B64D} (h : u.Agree u') : u.finish.Agree u'.finish := by
  obtain ⟨heq, hcells⟩ := h
  generalize u'.v = v' at heq hcells
  subst heq
  unfold B64D.finish
  dsimp only
  split_ifs with _ _ _ h2 h3
  · exact ⟨rfl, hcells⟩
  · exact ⟨rfl, hcells⟩
  · exact ⟨rfl, hcells⟩
  · exact ⟨by simp [unpack64_agree (hcells.mono (j := 2) (by simp [h2]))], hcells⟩
  · exact ⟨by simp [unpack64_agree (hcells.mono (j := 3) (by simp [h3]))], hcells⟩
  · exact ⟨rfl, hcells⟩

theorem B32E.symbol_agree (x : Byte) {u u' : B32E} (h : u.Agree u') :
    (B32E.symbol x u).Agree (B32E.symbol x u') := by
  obtain ⟨heq, hcells⟩ := h
  generalize u'.b = b' at heq hcells
  subst heq
  unfold B32E.symbol
  dsimp only
  split_ifs with hlt
  · exact ⟨rfl, (hcells.write x).mono (by dsimp only; bv_omega)⟩
  · have h0 : b'[0] = u.b[0] := hcells 0 (by simp; omega)
    have h1 : b'[1] = u.b[1] := hcells 1 (by simp; omega)
    have h2 : b'[2] = u.b[2] := hcells 2 (by simp; omega)
    have h3 : b'[3] = u.b[3] := hcells 3 (by simp; omega)
    exact ⟨by simp [h0, h1, h2, h3], .zero⟩

theorem B32E.finish_agree {u u' : B32E} (h : u.Agree u') : u.finish.Agree u'.finish := by
  obtain ⟨heq, hcells⟩ := h
  generalize u'.b = b' at heq hcells
  subst heq
  have hheld (i : Fin 5) : B32E.held { u with b := b' } i = u.held i := by
    unfold B32E.held
    split_ifs with hi
    · exact hcells i hi
    · rfl
  exact ⟨by simp [B32E.finish, B32E.tail, hheld], hcells⟩

theorem B32D.symbol_agree (odd : OddCount) (x : Byte) {u u' : B32D} (h : u.Agree u') :
    (B32D.symbol odd x u).Agree (B32D.symbol odd x u') := by
  obtain ⟨heq, hcells⟩ := h
  generalize u'.c = c' at heq hcells
  subst heq
  unfold B32D.symbol
  dsimp only
  split_ifs with _ _ _ _ _ _ hfull _ _ hcnt
  · exact ⟨rfl, hcells⟩
  · exact ⟨rfl, hcells⟩
  · exact ⟨rfl, hcells⟩
  · exact ⟨rfl, hcells⟩
  · exact ⟨rfl, hcells⟩
  · cases hk : usable32 odd u.cnt.toNat with
    | none => exact ⟨rfl, hcells⟩
    | some k => exact ⟨by simp [B32D.unpack, unpack32_agree (hcells.mono (usable32_le hk))], .zero⟩
  · cases usable32 odd u.cnt.toNat <;> exact ⟨rfl, hcells⟩
  · exact ⟨rfl, hcells⟩
  · exact ⟨rfl, hcells⟩
  · have below (i : Nat) (hi : i < 7) : c'[i] = u.c[i] := hcells ⟨i, by omega⟩ (by simpa [hcnt] using hi)
    exact ⟨by simp [below], .zero⟩
  · exact ⟨rfl, (hcells.write _).mono (by dsimp only; bv_omega)⟩

theorem B32D.finish_agree (odd : OddCount) {u u' : B32D} (h : u.Agree u') :
    (u.finish odd).Agree (u'.finish odd) := by
  obtain ⟨heq, hcells⟩ := h
  generalize u'.c = c' at heq hcells
  subst heq
  unfold B32D.finish
  dsimp only
  split_ifs
  · exact ⟨rfl, hcells⟩
  · exact ⟨rfl, hcells⟩
  · exact ⟨rfl, hcells⟩
  · cases hk : usable32 odd u.cnt.toNat with
    | none => exact ⟨rfl, hcells⟩
    | some k => exact ⟨by simp [B32D.unpack, unpack32_agree (hcells.mono (usable32_le hk))], hcells⟩

theorem B16D.symbol_agree (x : Byte) {u u' : B16D} (h : u.Agree u') :
    (B16D.symbol x u).Agree (B16D.symbol x u') := by
  obtain ⟨heq, hhi⟩ := h
  generalize u'.hi = hi' at heq hhi
  subst heq
  unfold B16D.symbol B16D.endsPrefix
  dsimp only
  split_ifs with _ _ _ _ hheld
  · exact ⟨rfl, hhi⟩
  · exact ⟨rfl, fun _ => rfl⟩
  · exact ⟨rfl, hhi⟩
  · exact ⟨rfl, hhi⟩
  · exact ⟨by simp [B16D.advance, hhi hheld], nofun⟩
  · exact ⟨rfl, fun _ => rfl⟩

theorem B16D.finish_agree {u u' : B16D} (h : u.Agree u') : u.finish.Agree u'.finish := by
  obtain ⟨heq, hhi⟩ := h
  generalize u'.hi = hi' at heq hhi
  subst heq
  unfold B16D.finish
  dsimp only
  split_ifs <;> exact ⟨rfl, hhi⟩

section State

variable {u : UnitId} {s s' : State}

theorem agreeOnWritten_of_file_eq (h : s'.file u = s.file u) : s.agreeOnWritten u s' := by
  cases u <;> simp_all [State.agreeOnWritten, State.file]

theorem State.agreeOnWritten.port_eq (h : s.agreeOnWritten u s') : s'.port u = s.port u := by
  cases u with
  | b64e => exact (congrArg B64E.port h.1 :)
  | b64d => exact (congrArg B64D.port h.1 :)
  | b32e => exact (congrArg B32E.port h.1 :)
  | b32d => exact (congrArg B32D.port h.1 :)
  | b16e => exact congrArg B16E.port h
  | b16d => exact (congrArg B16D.port h.1 :)

theorem applySymbol_agree (x : Byte) (hp : s'.params = s.params) (h : s.agreeOnWritten u s') :
    (s.applySymbol u x).agreeOnWritten u (s'.applySymbol u x) := by
  cases u with
  | b64e => exact B64E.symbol_agree x ⟨congrArg (fun r : B64E => { r with port := r.port.count }) h.1, h.2⟩
  | b64d => exact B64D.symbol_agree x ⟨congrArg (fun r : B64D => { r with port := r.port.count }) h.1, h.2⟩
  | b32e => exact B32E.symbol_agree x ⟨congrArg (fun r : B32E => { r with port := r.port.count }) h.1, h.2⟩
  | b32d =>
    simp only [State.applySymbol, hp]
    exact B32D.symbol_agree _ x ⟨congrArg (fun r : B32D => { r with port := r.port.count }) h.1, h.2⟩
  | b16e => exact congrArg (fun r : B16E => B16E.symbol x { r with port := r.port.count }) h
  | b16d => exact B16D.symbol_agree x ⟨congrArg (fun r : B16D => { r with port := r.port.count }) h.1, h.2⟩

theorem applyFinish_agree (hp : s'.params = s.params) (h : s.agreeOnWritten u s') :
    (s.applyFinish u).agreeOnWritten u (s'.applyFinish u) := by
  cases u with
  | b64e => exact B64E.finish_agree h
  | b64d => exact B64D.finish_agree h
  | b32e => exact B32E.finish_agree h
  | b32d =>
    simp only [State.applyFinish, hp]
    exact B32D.finish_agree _ h
  | b16e => exact congrArg B16E.finish h
  | b16d => exact B16D.finish_agree h

/-- An event reads no cell that has not been written (10_state.md R50). -/
theorem apply_agree (e : Event) (hp : s'.params = s.params) (h : s.agreeOnWritten u s') :
    (s.apply u e).agreeOnWritten u (s'.apply u e) := by
  cases e with
  | reset => exact agreeOnWritten_of_file_eq ((applyReset_file u s').trans (applyReset_file u s).symm)
  | start cfg =>
    refine agreeOnWritten_of_file_eq ((applyStart_file u cfg s').trans ?_)
    rw [h.port_eq, ← applyStart_file]
    rfl
  | symbol x => exact applySymbol_agree x hp h
  | finish => exact applyFinish_agree hp h

end State

/-- Settles O1: `RESET` and `START` leave every working register 0, ROMs are constants, and no event reads an unwritten cell. -/
theorem resetAndStartLeaveTheListedValues : Obligations.ResetAndStartLeaveTheListedValues := by
  intro u s
  refine ⟨?_, fun cfg hc hstart => ?_, fun _ t _ _ a hrom => memRead_rom hrom s t a, fun e s' t hp hagree h => ?_⟩
  · exact ⟨_, Port.reset, present_eq_next.2 ⟨refusalOf_reset u s, rfl⟩, applyReset_file u s, applyReset_port u s,
      rfl, rfl, rfl, rfl, rfl, rfl⟩
  · exact ⟨_, (s.port u).onStart cfg, present_eq_next.2 ⟨refusalOf_start.2 ⟨hc, hstart⟩, rfl⟩, applyStart_file u cfg s,
      applyStart_port u cfg s, rfl, rfl, rfl, rfl, rfl, rfl⟩
  · obtain ⟨hr, rfl⟩ := present_eq_next.1 h
    rw [refusalOf_congr hp.symm hagree.port_eq.symm] at hr
    exact ⟨_, present_eq_next.2 ⟨hr, rfl⟩, apply_agree e hp hagree⟩

end Sys2Proof.Machine
end

section
/-! SUPPORT. The ROMs (20_memory.md R60 to R72): each encode table lists its alphabet, and a decode table that inverts it and holds
the sentinel elsewhere gives the place of a character in that alphabet. -/

namespace Sys2Proof.Machine

open Sys2Proof

section Addresses

/-- The variant is the highest bit of an address of a table pair: the second table stands above the first (20_memory.md R72). -/
theorem toNat_bit_append {w : Nat} (v : BitVec 1) (x : BitVec w) : (v ++ x).toNat = 2 ^ w * v.toNat + x.toNat := by
  rw [BitVec.toNat_append, ← Nat.shiftLeft_add_eq_or_of_lt x.isLt, Nat.shiftLeft_eq, Nat.mul_comm]

theorem ofNat_bit_append {w : Nat} (v : BitVec 1) (x : BitVec w) :
    BitVec.ofNat (1 + w) (2 ^ w * v.toNat + x.toNat) = v ++ x := by
  rw [← toNat_bit_append, BitVec.ofNat_toNat, BitVec.setWidth_eq]

theorem toNat_bit_byte (v : BitVec 1) (x : Byte) : (v ++ x : BitVec 9).toNat = 256 * v.toNat + x.toNat :=
  toNat_bit_append v x

/-- The low byte of a decode table's address is the character. -/
theorem bit_byte_mod (v : BitVec 1) (x : Byte) : (v ++ x : BitVec 9).toNat % 256 = x.toNat := by
  rw [toNat_bit_byte]
  omega

/-- The high bit of a decode table's address is the variant. -/
theorem bit_byte_lt (v : BitVec 1) (x : Byte) : (v ++ x : BitVec 9).toNat < 256 ↔ v = 0 := by
  rw [toNat_bit_byte]
  bv_omega

variable (s : State) (v : BitVec 1)

theorem memRead_e64 (i : Digit64) : memRead s .e64 (2 ^ 6 * v.toNat + i.toNat) = some (e64 v i) :=
  (if_pos (by omega)).trans (congrArg (some ∘ romE64) (ofNat_bit_append v i))

theorem memRead_e32 (i : Digit32) : memRead s .e32 (2 ^ 5 * v.toNat + i.toNat) = some (e32 v i) :=
  (if_pos (by omega)).trans (congrArg (some ∘ romE32) (ofNat_bit_append v i))

theorem memRead_e16 (i : Nibble) : memRead s .e16 (2 ^ 4 * v.toNat + i.toNat) = some (e16 v i) :=
  (if_pos (by omega)).trans (congrArg (some ∘ romE16) (ofNat_bit_append v i))

theorem memRead_d64 (x : Byte) : memRead s .d64 (2 ^ 8 * v.toNat + x.toNat) = some (d64 v x) :=
  (if_pos (by omega)).trans (congrArg (some ∘ romD64) (ofNat_bit_append v x))

theorem memRead_d32 (x : Byte) : memRead s .d32 (2 ^ 8 * v.toNat + x.toNat) = some (d32 v x) :=
  (if_pos (by omega)).trans (congrArg (some ∘ romD32) (ofNat_bit_append v x))

theorem memRead_d16 (x : Byte) : memRead s .d16 x.toNat = some (d16 x) := by
  simp only [memRead, x.isLt, if_true, BitVec.ofNat_toNat, BitVec.setWidth_eq, d16]

end Addresses

section Alphabets

/-! What holds of any alphabet of `2 ^ w` characters and an encode table `e` that lists it. -/

variable {w : Nat} {alphabet : List Byte} {e : BitVec w → Byte} {d : Byte → Byte} {x : Byte}

theorem entry_ofNat (he : ∀ i, alphabet[i.toNat]? = some (e i)) (hlen : alphabet.length = 2 ^ w) {k : Nat}
    (hk : k < alphabet.length) : e (BitVec.ofNat w k) = alphabet[k] := by
  refine Option.some_inj.1 ?_
  rw [← he, BitVec.toNat_ofNat, Nat.mod_eq_of_lt (hlen ▸ hk), List.getElem?_eq_getElem hk]

/-- Every character of an alphabet is the entry of the encode table at its place. -/
theorem exists_entry_of_mem (he : ∀ i, alphabet[i.toNat]? = some (e i)) (hlen : alphabet.length = 2 ^ w)
    (hx : x ∈ alphabet) : ∃ i, e i = x := by
  obtain ⟨k, hk, rfl⟩ := List.mem_iff_getElem.1 hx
  exact ⟨_, entry_ofNat he hlen hk⟩

/-- A table that inverts the encode table at every digit, and holds the sentinel at `x` if `x` is not in the alphabet, holds at `x`
the place of `x` (20_memory.md R60). -/
theorem eq_placeIn_of_inverse (he : ∀ i, alphabet[i.toNat]? = some (e i)) (hlen : alphabet.length = 2 ^ w)
    (hinv : ∀ i, d (e i) = i.setWidth 8) (hmem : d x ≠ 255 → x ∈ alphabet) : d x = placeIn alphabet x := by
  unfold placeIn
  split
  next k hk =>
    obtain ⟨hlt, rfl, -⟩ := List.idxOf?_eq_some_iff.1 hk
    rw [← entry_ofNat he hlen hlt, hinv]
    exact BitVec.eq_of_toNat_eq (by simp [Nat.mod_eq_of_lt (hlen ▸ hlt)])
  next hnone => exact not_imp_comm.1 hmem (List.idxOf?_eq_none_iff.1 hnone)

/-- A left inverse up to the width of a byte makes an encode table injective (20_memory.md R60). -/
theorem entries_distinct (hw : w ≤ 8) (hinv : ∀ i, d (e i) = i.setWidth 8) (i j : BitVec w) (h : e i = e j) : i = j := by
  have hij : i.setWidth 8 = j.setWidth 8 := by rw [← hinv, ← hinv, h]
  simpa [BitVec.setWidth_setWidth_of_le, hw] using congrArg (BitVec.setWidth w) hij

/-- The first half of the addresses of an encode ROM reads the alphabet of variant 0, the second half that of variant 1. -/
theorem map_memRead_range {s : State} {sp : Space} {alphabet : BitVec 1 → List Byte} {e : BitVec 1 → BitVec w → Byte}
    (hread : ∀ v i, memRead s sp (2 ^ w * v.toNat + i.toNat) = some (e v i))
    (he : ∀ v i, (alphabet v)[i.toNat]? = some (e v i)) (hlen : ∀ v, (alphabet v).length = 2 ^ w) :
    (List.range (2 ^ w + 2 ^ w)).map (memRead s sp) = (alphabet 0 ++ alphabet 1).map some := by
  have half (v : BitVec 1) :
      (List.range (2 ^ w)).map (fun a => memRead s sp (2 ^ w * v.toNat + a)) = (alphabet v).map some := by
    refine List.ext_getElem (by simp [hlen]) fun a ha ha' => ?_
    have ha : a < 2 ^ w := by simpa using ha
    have hv := hread v (BitVec.ofNat w a)
    rw [BitVec.toNat_ofNat, Nat.mod_eq_of_lt ha, entry_ofNat (he v) (hlen v) (by simpa using ha')] at hv
    simpa using hv
  rw [List.range_add, List.map_append, List.map_append, ← half 0, ← half 1]
  simp

end Alphabets

section Characters

variable {c : Byte}

theorem alphabet64_getElem? : ∀ (v : BitVec 1) (i : Digit64), (alphabet64 v)[i.toNat]? = some (e64 v i) := by decide

theorem alphabet32_getElem? : ∀ (v : BitVec 1) (i : Digit32), (alphabet32 v)[i.toNat]? = some (e32 v i) := by decide

theorem alphabet16_getElem? : ∀ (v : BitVec 1) (i : Nibble), (alphabet16 v)[i.toNat]? = some (e16 v i) := by decide

theorem alphabet64_length : ∀ v : BitVec 1, (alphabet64 v).length = 2 ^ 6 := by decide

theorem alphabet32_length : ∀ v : BitVec 1, (alphabet32 v).length = 2 ^ 5 := by decide

theorem alphabet16_length : ∀ v : BitVec 1, (alphabet16 v).length = 2 ^ 4 := by decide

theorem mem_charsFrom {first n : Nat} (h : first + n ≤ 256) :
    c ∈ charsFrom first n ↔ first ≤ c.toNat ∧ c.toNat < first + n := by
  simp only [charsFrom, List.mem_map, List.mem_range]
  constructor
  · rintro ⟨k, hk, rfl⟩
    rw [BitVec.toNat_ofNat]
    omega
  · rintro ⟨hlo, hhi⟩
    exact ⟨c.toNat - first, by omega, by bv_omega⟩

theorem upperAscii_of_lower (h : 0x61 ≤ c.toNat ∧ c.toNat ≤ 0x7A) : (upperAscii c).toNat = c.toNat - 0x20 := by
  rw [upperAscii, if_pos h]
  bv_omega

theorem upperAscii_of_not_lower (h : ¬(0x61 ≤ c.toNat ∧ c.toNat ≤ 0x7A)) : upperAscii c = c := if_neg h

theorem upperAscii_lowerAscii (c : Byte) : upperAscii (lowerAscii c) = upperAscii c := by
  unfold lowerAscii
  split
  next hc =>
    have hlow : (c + 0x20).toNat = c.toNat + 0x20 := by bv_omega
    have hup := upperAscii_of_lower (c := c + 0x20) (by omega)
    rw [upperAscii_of_not_lower (c := c) (by omega)]
    bv_omega
  next => rfl

end Characters

section Tables

variable {v : BitVec 1} {x : Byte}

theorem d64_e64 : ∀ (v : BitVec 1) (i : Digit64), d64 v (e64 v i) = i.setWidth 8 := by decide

theorem d32_e32 : ∀ (v : BitVec 1) (i : Digit32), d32 v (e32 v i) = i.setWidth 8 := by decide

theorem d16_e16 : ∀ (v : BitVec 1) (i : Nibble), d16 (e16 v i) = i.setWidth 8 := by decide

/-- The two letter arms of a decode table answer the same place (20_memory.md R60, R67, R68, R71). -/
theorem d32_upperAscii : d32 v (upperAscii x) = d32 v x := by
  by_cases hx : 0x61 ≤ x.toNat ∧ x.toNat ≤ 0x7A
  · simp only [d32, romD32, bit_byte_mod, bit_byte_lt, upperAscii_of_lower hx]
    grind
  · rw [upperAscii_of_not_lower hx]

theorem d16_upperAscii : d16 (upperAscii x) = d16 x := by
  by_cases hx : 0x61 ≤ x.toNat ∧ x.toNat ≤ 0x7A
  · simp only [d16, romD16, upperAscii_of_lower hx]
    grind
  · rw [upperAscii_of_not_lower hx]

theorem mem_alphabet64 : x ∈ alphabet64 v ↔
    0x30 ≤ x.toNat ∧ x.toNat ≤ 0x39 ∨ 0x41 ≤ x.toNat ∧ x.toNat ≤ 0x5A ∨ 0x61 ≤ x.toNat ∧ x.toNat ≤ 0x7A
      ∨ x.toNat = (if v = 0 then 0x2B else 0x2D) ∨ x.toNat = (if v = 0 then 0x2F else 0x5F) := by
  unfold alphabet64
  split <;> simp [mem_charsFrom, BitVec.toNat_eq] <;> omega

theorem mem_alphabet64_of_d64_ne (h : d64 v x ≠ 255) : x ∈ alphabet64 v := by
  by_contra hmem
  simp only [mem_alphabet64, not_or] at hmem
  obtain ⟨hdigit, hupper, hlower, hplus, hslash⟩ := hmem
  refine h ?_
  simp only [d64, romD64, bit_byte_mod, bit_byte_lt]
  rw [if_neg hdigit, if_neg hupper, if_neg hlower, if_neg hplus, if_neg hslash, sentinel]

/-- The condition on the character under which an arm of `romD32` answers a place. -/
theorem upperAscii_mem_alphabet32 : upperAscii x ∈ alphabet32 v ↔
    if v = 0 then
      0x32 ≤ x.toNat ∧ x.toNat ≤ 0x37 ∨ 0x41 ≤ x.toNat ∧ x.toNat ≤ 0x5A ∨ 0x61 ≤ x.toNat ∧ x.toNat ≤ 0x7A
    else
      0x30 ≤ x.toNat ∧ x.toNat ≤ 0x39 ∨ 0x41 ≤ x.toNat ∧ x.toNat ≤ 0x56 ∨ 0x61 ≤ x.toNat ∧ x.toNat ≤ 0x76 := by
  unfold alphabet32
  by_cases hx : 0x61 ≤ x.toNat ∧ x.toNat ≤ 0x7A
  · split <;> simp [mem_charsFrom, upperAscii_of_lower hx] <;> omega
  · split <;> simp [mem_charsFrom, upperAscii_of_not_lower hx] <;> omega

theorem upperAscii_mem_alphabet32_of_d32_ne (h : d32 v x ≠ 255) : upperAscii x ∈ alphabet32 v := by
  by_contra hmem
  refine h ?_
  simp only [d32, romD32, bit_byte_mod, bit_byte_lt]
  rw [upperAscii_mem_alphabet32] at hmem
  split at hmem
  next hv =>
    obtain ⟨hdigit, hupper, hlower⟩ := by simpa only [not_or] using hmem
    rw [if_pos hv, if_neg hdigit, if_neg hupper, if_neg hlower, sentinel]
  next hv =>
    obtain ⟨hdigit, hupper, hlower⟩ := by simpa only [not_or] using hmem
    rw [if_neg hv, if_neg hdigit, if_neg hupper, if_neg hlower, sentinel]

theorem mem_alphabet16 : x ∈ alphabet16 v ↔
    0x30 ≤ x.toNat ∧ x.toNat ≤ 0x39
      ∨ if v = 0 then 0x61 ≤ x.toNat ∧ x.toNat ≤ 0x66 else 0x41 ≤ x.toNat ∧ x.toNat ≤ 0x46 := by
  unfold alphabet16
  split <;> simp [mem_charsFrom] <;> omega

theorem mem_alphabet16_of_d16_ne (h : d16 x ≠ 255) : x ∈ alphabet16 0 ∨ x ∈ alphabet16 1 := by
  by_contra hmem
  simp only [mem_alphabet16, not_or] at hmem
  obtain ⟨⟨hdigit, hlower⟩, -, hupper⟩ := hmem
  refine h ?_
  simp only [d16, romD16]
  rw [if_neg hdigit, if_neg (c := 0x41 ≤ x.toNat ∧ x.toNat ≤ 0x46) hupper,
    if_neg (c := 0x61 ≤ x.toNat ∧ x.toNat ≤ 0x66) hlower, sentinel]

theorem upperAscii_mem_alphabet16 : upperAscii x ∈ alphabet16 1 ↔ x ∈ alphabet16 0 ∨ x ∈ alphabet16 1 := by
  by_cases hx : 0x61 ≤ x.toNat ∧ x.toNat ≤ 0x7A
  · simp [mem_alphabet16, upperAscii_of_lower hx]
    omega
  · simp [mem_alphabet16, upperAscii_of_not_lower hx]
    omega

end Tables

section Places

variable (v : BitVec 1) (x : Byte)

theorem d64_eq_placeIn : d64 v x = placeIn (alphabet64 v) x :=
  eq_placeIn_of_inverse (alphabet64_getElem? v) (alphabet64_length v) (d64_e64 v) mem_alphabet64_of_d64_ne

theorem d32_eq_placeIn : d32 v x = placeIn (alphabet32 v) (upperAscii x) := by
  rw [← d32_upperAscii]
  refine eq_placeIn_of_inverse (alphabet32_getElem? v) (alphabet32_length v) (d32_e32 v) fun h => ?_
  exact upperAscii_mem_alphabet32_of_d32_ne (d32_upperAscii (x := x) ▸ h)

theorem d16_eq_placeIn : d16 x = placeIn (alphabet16 1) (upperAscii x) := by
  rw [← d16_upperAscii]
  refine eq_placeIn_of_inverse (alphabet16_getElem? 1) (alphabet16_length 1) (d16_e16 1) fun h => ?_
  exact upperAscii_mem_alphabet16.2 (mem_alphabet16_of_d16_ne (d16_upperAscii (x := x) ▸ h))

end Places

section Settled

/-- Settles O30: each table pair is an alphabet and the places in it; that the entries of an encode table are distinct follows from
the inverse. -/
theorem alphabetTablesAreInverse : Obligations.AlphabetTablesAreInverse := by
  refine ⟨fun s t _ sp a hrom => memRead_rom hrom s t a, d64_e64, d32_e32, d16_e16, fun v i => ?_, fun v i => ?_,
    fun v => entries_distinct (by decide) (d64_e64 v), fun v => entries_distinct (by decide) (d32_e32 v),
    fun v => entries_distinct (by decide) (d16_e16 v), fun v x h => ?_, fun v x h => ?_, fun x h => ?_⟩
  · rw [← d32_upperAscii (x := lowerAscii _), upperAscii_lowerAscii]
  · rw [← d16_upperAscii (x := lowerAscii _), upperAscii_lowerAscii]
  · exact exists_entry_of_mem (alphabet64_getElem? v) (alphabet64_length v) (mem_alphabet64_of_d64_ne h)
  · exact exists_entry_of_mem (alphabet32_getElem? v) (alphabet32_length v) (upperAscii_mem_alphabet32_of_d32_ne h)
  · obtain hlow | hup := mem_alphabet16_of_d16_ne h
    · exact (exists_entry_of_mem (alphabet16_getElem? 0) (alphabet16_length 0) hlow).imp fun _ => .inl
    · exact (exists_entry_of_mem (alphabet16_getElem? 1) (alphabet16_length 1) hup).imp fun _ => .inr

/-- Settles O31: the encode ROMs list the two alphabets of each pair one above the other. -/
theorem encodeRomsHoldTheAlphabets : Obligations.EncodeRomsHoldTheAlphabets := fun s =>
  ⟨map_memRead_range (memRead_e64 s) alphabet64_getElem? alphabet64_length,
    map_memRead_range (memRead_e32 s) alphabet32_getElem? alphabet32_length,
    map_memRead_range (memRead_e16 s) alphabet16_getElem? alphabet16_length,
    fun _ => ⟨fun h => if_neg h.not_gt, fun h => if_neg h.not_gt, fun h => if_neg h.not_gt⟩⟩

/-- How many bytes of one table of a decode ROM are characters. -/
theorem d64_entry_count : ∀ v : BitVec 1,
    ((List.range 256).filter fun x => memRead State.reset .d64 (256 * v.toNat + x) != some 255).length = 64 := by
  decide

theorem d32_entry_count : ∀ v : BitVec 1,
    ((List.range 256).filter fun x => memRead State.reset .d32 (256 * v.toNat + x) != some 255).length
      = if v = 0 then 58 else 54 := by
  decide

theorem d16_entry_count : ((List.range 256).filter fun x => memRead State.reset .d16 x != some 255).length = 22 := by
  decide

/-- Settles O32: the decode ROMs hold the places, and a ROM read in any state is that of the reset state, where the entries are
counted. -/
theorem decodeRomsHoldThePlaces : Obligations.DecodeRomsHoldThePlaces := by
  refine ⟨fun s x => ⟨?_, ?_, ?_, ?_, ?_⟩, fun s v => ?_⟩
  · simpa [d64_eq_placeIn] using memRead_d64 s 0 x
  · simpa [d64_eq_placeIn] using memRead_d64 s 1 x
  · simpa [d32_eq_placeIn] using memRead_d32 s 0 x
  · simpa [d32_eq_placeIn] using memRead_d32 s 1 x
  · rw [memRead_d16, d16_eq_placeIn]
  · have hrom (sp : Space) (h : sp.isRom = true) : memRead s sp = memRead State.reset sp :=
      funext (memRead_rom h State.reset s)
    rw [hrom .d64 rfl, hrom .d32 rfl, hrom .d16 rfl]
    exact ⟨d64_entry_count v, d32_entry_count v, d16_entry_count⟩

end Settled

end Sys2Proof.Machine
end

section
/-! SUPPORT. The descriptor decoder as the inverse of the encoder (30_encoding.md R120, R121), the reserved descriptors (R124), and
the host's two actions for a pseudo-operation (R128; 44_validation_and_laws.md R220). -/

namespace Sys2Proof.Machine

open Sys2Proof

section Descriptors

variable {opd : Opd} {m : List Byte}

theorem decode_encode (i : Instr) : decode (encode i).1 (encode i).2 = .ok i := by
  cases i <;> rfl

/-- Each row of the decoder that answers an operation is the encoder's row of that operation. -/
theorem encode_of_decode {i : Instr} (h : decode opd m = .ok i) : encode i = (opd, m) := by
  unfold decode at h
  split at h <;> cases h
  all_goals
    next hrow => exact Prod.ext (BitVec.eq_of_toNat_eq hrow.symm) rfl

/-- A descriptor decodes exactly when it is the descriptor of an operation with that message. -/
theorem decode_eq_ok {i : Instr} : decode opd m = .ok i ↔ encode i = (opd, m) :=
  ⟨encode_of_decode, fun h => by simpa [h] using decode_encode i⟩

/-- Why a descriptor is reserved does not depend on the message (30_encoding.md R124). -/
theorem decode_error_message {why : Reserved} (m' : List Byte) (h : decode opd m = .error why) :
    decode opd m' = .error why := by
  unfold decode at h ⊢
  split at h <;> simp_all

/-- The descriptors that 30_encoding.md R124 lists, by their fields `UNIT` (bits 4:2), `FLAG` (bit 1) and `VARIANT` (bit 0). -/
abbrev ListedReserved (opd : Opd) : Prop :=
  ((opd.extractLsb' 2 3).toNat = 6 ∨ (opd.extractLsb' 2 3).toNat = 7)
    ∨ (((opd.extractLsb' 2 3).toNat = 1 ∨ (opd.extractLsb' 2 3).toNat = 3) ∧ opd.getLsbD 1 = true)
    ∨ ((opd.extractLsb' 2 3).toNat = 4 ∧ opd.getLsbD 0 = true)
    ∨ ((opd.extractLsb' 2 3).toNat = 5 ∧ (opd.getLsbD 0 = true ∨ opd.getLsbD 1 = true))

theorem isOk_decode_nil : ∀ opd : Opd, (decode opd []).isOk = false ↔ ListedReserved opd := by
  decide

theorem decode_error_iff : (∃ why, decode opd m = .error why) ↔ ListedReserved opd := by
  rw [← isOk_decode_nil]
  constructor
  · rintro ⟨why, h⟩
    rw [decode_error_message [] h]
    rfl
  · intro h
    cases hd : decode opd [] with
    | error why => exact ⟨why, decode_error_message m hd⟩
    | ok i =>
      rw [hd] at h
      exact nomatch h

end Descriptors

/-- Settles O7: the two directions of `decode_eq_ok`. -/
theorem decodeAndEncodeAgree : Obligations.DecodeAndEncodeAgree :=
  ⟨decode_encode, fun _ _ _ => encode_of_decode⟩

/-- Settles O5: each row of the table is the encoder's row of the operation it names. -/
theorem descriptorsDecodeAsTheTableSays : Obligations.DescriptorsDecodeAsTheTableSays := fun m =>
  ⟨decode_encode (.b64encStdNopad m), decode_encode (.b64encUrlNopad m), decode_encode (.b64encStdPad m),
    decode_encode (.b64encUrlPad m), decode_encode (.b64decStd m), decode_encode (.b64decUrl m),
    decode_encode (.b32encStdNopad m), decode_encode (.b32encHexNopad m), decode_encode (.b32encStdPad m),
    decode_encode (.b32encHexPad m), decode_encode (.b32decStd m), decode_encode (.b32decHex m),
    decode_encode (.b16encLower m), decode_encode (.b16encUpper m), decode_encode (.b16dec m)⟩

/-- Settles O6: the listed descriptors are counted over the table words, and the decoder's reason is the refusal's. -/
theorem reservedDescriptorsAreRefused : Obligations.ReservedDescriptorsAreRefused := by
  refine ⟨by decide, fun opd m s => ⟨decode_error_iff, ?_⟩⟩
  rintro ⟨why, h⟩
  exact ⟨why, by simp only [act, decode_error_message [] h], by simp only [act, h]⟩

section Pseudo

/-- The script plays no part in a transaction and stays as it is. -/
theorem afterTransaction_withScript (u : UnitId) (cfg : Cfg) (message : List Byte) (s : State) (acts : List HostAction) :
    afterTransaction u cfg message { s with script := acts } =
      { afterTransaction u cfg message s with script := acts } := by
  have symbols (s : State) : message.foldl (fun s x => s.applySymbol u x) { s with script := acts } =
      { message.foldl (fun s x => s.applySymbol u x) s with script := acts } := by
    induction message generalizing s with
    | nil => rfl
    | cons x rest ih => exact (congrArg (rest.foldl _) (apply_withScript s u (.symbol x) acts)).trans (ih _)
  have hstart : State.applyStart u cfg { s with script := acts } = { s.applyStart u cfg with script := acts } :=
    apply_withScript s u (.start cfg) acts
  rw [afterTransaction, hstart, symbols]
  exact apply_withScript _ u .finish acts

/-- A unit that ran a transaction has been reset. -/
theorem afterTransaction_wasReset (u : UnitId) (cfg : Cfg) (message : List Byte) (s : State) :
    ((afterTransaction u cfg message s).port u).wasReset = (s.port u).wasReset := by
  obtain ⟨hwas, -⟩ := applyFinish_port u (message.foldl (fun s x => s.applySymbol u x) (s.applyStart u cfg))
  obtain ⟨ys, hsyms⟩ := applySymbols_port u message (s.applyStart u cfg)
  rw [afterTransaction, hwas, hsyms, applyStart_port, onStart_wasReset]

/-- The line of a pseudo-operation decodes to the operation it expands to (30_encoding.md R128). -/
theorem decode_expandPseudo (p : Pseudo) (m : List Byte) :
    decode (encode (expandPseudo p m)).1 m = .ok (expandPseudo p m) := by
  cases p <;> exact decode_encode _

theorem expandPseudo_message (p : Pseudo) (m : List Byte) : (expandPseudo p m).message = m := by
  cases p <;> rfl

/-- A line that decodes, then a read of a register of its unit, are the operation and the read of what it leaves. -/
theorem steps_line_read {opd : Opd} {m : List Byte} {i : Instr} {r : ReadTarget} {s : State} {rest : List HostAction}
    (hdec : decode opd m = .ok i) (hscript : s.script = [.line opd m, .read i.unit r] ++ rest)
    (hstart : s.canStart i.unit) (hfits : s.params.admits i.message.length = true) :
    steps 2 s = readTarget i.unit r { afterTransaction i.unit i.cfg i.message s with script := rest } := by
  obtain ⟨hw, hst⟩ := hstart
  have hline : step s = .next { afterTransaction i.unit i.cfg i.message s with script := .read i.unit r :: rest } := by
    rw [step_cons hscript, act_line hdec, ← afterTransaction_withScript]
    exact exec_eq_next (by rwa [withScript_port]) (by rwa [withScript_port]) hfits
  rw [steps_succ, hline, andThen_next, steps_succ, step_cons rfl, act_read]
  cases readTarget i.unit r { afterTransaction i.unit i.cfg i.message s with script := rest } <;> rfl

theorem readTarget_status {u : UnitId} {s : State} (hw : (s.port u).wasReset = true) :
    readTarget u .status s = .next { s with lastRead := some (.status (s.port u).status) } := by
  simp [readTarget, hw]

theorem readTarget_out {u : UnitId} {s : State} (hw : (s.port u).wasReset = true) :
    readTarget u .out s = .next { s with lastRead := some (.out (s.port u).out) } := by
  simp [readTarget, hw]

end Pseudo

/-- Settles O48: the line runs the operation, and the read shows `STATUS` or `OUT` of its unit. -/
theorem pseudoOperationsReadTheirResult : Obligations.PseudoOperationsReadTheirResult := by
  intro p m s rest hscript hstart hfits
  rw [← expandPseudo_message p m] at hfits
  have hrun := steps_line_read (decode_expandPseudo p m) hscript hstart hfits
  obtain ⟨hw, hst⟩ := hstart
  have hwas := (afterTransaction_wasReset _ (expandPseudo p m).cfg (expandPseudo p m).message s).trans hw
  rw [← withScript_port _ _ rest] at hwas
  cases hkeeps : keepsOnlyOk p with
  | true =>
    rw [hkeeps, if_pos rfl, readTarget_status hwas] at hrun
    exact ⟨_, _, exec_eq_next hw hst hfits, hrun, rfl, fun _ => ⟨_, rfl, by rw [status_ok, withScript_port]⟩, nofun⟩
  | false =>
    rw [hkeeps, if_neg nofun, readTarget_out hwas] at hrun
    exact ⟨_, _, exec_eq_next hw hst hfits, hrun, rfl, nofun, fun _ => by simp only [withScript_port]⟩

end Sys2Proof.Machine
end

section
/-! SUPPORT. The packers and unpackers as the slices of the group (30_encoding.md R101, R102): what the shifts of R104 to R109 on
naturals leave, bit by bit. -/

namespace Sys2Proof.Machine

open Sys2Proof

section Slices

variable {p q : Nat} (x : BitVec p) (y : BitVec q)

/-- Two slices side by side, as a shifter and an OR put them together: the low `a` bits of `x` above the bits of `y` from `k` up. -/
theorem ofNat_shiftLeft_or_shiftRight (a b k : Nat) (h : q ≤ b + k) :
    BitVec.ofNat (a + b) ((x.toNat <<< b) ||| (y.toNat >>> k)) = x.extractLsb' 0 a ++ y.extractLsb' k b := by
  refine BitVec.eq_of_getLsbD_eq fun i hi => ?_
  simp only [BitVec.getLsbD_ofNat, hi, decide_true, Bool.true_and, Nat.testBit_or, Nat.testBit_shiftLeft,
    Nat.testBit_shiftRight, BitVec.testBit_toNat, BitVec.getLsbD_append, BitVec.getLsbD_extractLsb']
  split
  next hlow => simp [hlow, Nat.not_le.2 hlow]
  next hhigh =>
    have hin : i - b < a := by omega
    simp [Nat.not_lt.1 hhigh, hin, BitVec.getLsbD_of_ge y (k + i) (by omega)]

/-- A mask of the low bits is a slice. -/
theorem toNat_and_mask {a mask : Nat} (h : mask = 2 ^ a - 1) : x.toNat &&& mask = (x.extractLsb' 0 a).toNat := by
  rw [h, Nat.and_two_pow_sub_one_eq_mod, BitVec.extractLsb'_toNat, Nat.shiftRight_zero]

/-- A mask of the low bits, as wide as the value it is stored in, does nothing. -/
theorem ofNat_and_mask {w mask : Nat} (h : mask = 2 ^ w - 1) (n : Nat) : BitVec.ofNat w (n &&& mask) = BitVec.ofNat w n := by
  rw [h, Nat.and_two_pow_sub_one_eq_mod]
  exact BitVec.eq_of_toNat_eq (by simp)

/-- A shift to the right that leaves no more bits than the width loses none of them. -/
theorem toNat_ofNat_shiftRight {w k : Nat} (h : p ≤ w + k) :
    (BitVec.ofNat w (x.toNat >>> k)).toNat = x.toNat >>> k := by
  rw [BitVec.toNat_ofNat, Nat.mod_eq_of_lt]
  rw [Nat.shiftRight_eq_div_pow, Nat.div_lt_iff_lt_mul (by positivity), ← Nat.pow_add]
  exact x.isLt.trans_le (Nat.pow_le_pow_right (by decide) h)

theorem toNat_ofNat_and_mask {w mask : Nat} (h : mask = 2 ^ w - 1) (n : Nat) :
    (BitVec.ofNat w (n &&& mask)).toNat = n &&& mask := by
  rw [h, Nat.and_two_pow_sub_one_eq_mod, BitVec.toNat_ofNat, Nat.mod_mod]

end Slices

section Groups

theorem pack64_toNat (b1 b2 b3 : Byte) : (pack64 b1 b2 b3).map BitVec.toNat =
    [b1.toNat >>> 2, ((b1.toNat <<< 4) ||| (b2.toNat >>> 4)) &&& 0x3F,
      ((b2.toNat <<< 2) ||| (b3.toNat >>> 6)) &&& 0x3F, b3.toNat &&& 0x3F] := by
  simp only [pack64, List.map_cons, List.map_nil, toNat_ofNat_shiftRight b1 (w := 6) (k := 2) (by decide),
    toNat_ofNat_and_mask (w := 6) (mask := 0x3F) rfl]

theorem pack64_eq_slices (b1 b2 b3 : Byte) : pack64 b1 b2 b3 =
    [b1.extractLsb' 2 6, b1.extractLsb' 0 2 ++ b2.extractLsb' 4 4, b2.extractLsb' 0 4 ++ b3.extractLsb' 6 2,
      b3.extractLsb' 0 6] := by
  rw [← ofNat_shiftLeft_or_shiftRight b1 b2 2 4 4 (by decide), ← ofNat_shiftLeft_or_shiftRight b2 b3 4 2 6 (by decide)]
  simp only [pack64, ofNat_and_mask (w := 6) (mask := 0x3F) rfl]
  rfl

theorem pack32_toNat (b1 b2 b3 b4 b5 : Byte) : (pack32 b1 b2 b3 b4 b5).map BitVec.toNat =
    [b1.toNat >>> 3, ((b1.toNat <<< 2) ||| (b2.toNat >>> 6)) &&& 0x1F, (b2.toNat >>> 1) &&& 0x1F,
      ((b2.toNat <<< 4) ||| (b3.toNat >>> 4)) &&& 0x1F, ((b3.toNat <<< 1) ||| (b4.toNat >>> 7)) &&& 0x1F,
      (b4.toNat >>> 2) &&& 0x1F, ((b4.toNat <<< 3) ||| (b5.toNat >>> 5)) &&& 0x1F, b5.toNat &&& 0x1F] := by
  simp only [pack32, List.map_cons, List.map_nil, toNat_ofNat_shiftRight b1 (w := 5) (k := 3) (by decide),
    toNat_ofNat_and_mask (w := 5) (mask := 0x1F) rfl]

theorem pack32_eq_slices (b1 b2 b3 b4 b5 : Byte) : pack32 b1 b2 b3 b4 b5 =
    [b1.extractLsb' 3 5, b1.extractLsb' 0 3 ++ b2.extractLsb' 6 2, b2.extractLsb' 1 5,
        b2.extractLsb' 0 1 ++ b3.extractLsb' 4 4, b3.extractLsb' 0 4 ++ b4.extractLsb' 7 1, b4.extractLsb' 2 5,
        b4.extractLsb' 0 2 ++ b5.extractLsb' 5 3, b5.extractLsb' 0 5] := by
  rw [← ofNat_shiftLeft_or_shiftRight b1 b2 3 2 6 (by decide), ← ofNat_shiftLeft_or_shiftRight b2 b3 1 4 4 (by decide),
    ← ofNat_shiftLeft_or_shiftRight b3 b4 4 1 7 (by decide), ← ofNat_shiftLeft_or_shiftRight b4 b5 2 3 5 (by decide)]
  simp only [pack32, ofNat_and_mask (w := 5) (mask := 0x1F) rfl]
  rfl

/-- The three bytes of a full group (30_encoding.md R105), as slices of its digits. -/
theorem unpack64_full (v1 v2 v3 v4 : Digit64) : unpack64 v1 v2 v3 v4 4 =
    [v1 ++ v2.extractLsb' 4 2, v2.extractLsb' 0 4 ++ v3.extractLsb' 2 4, v3.extractLsb' 0 2 ++ v4] := by
  have h1 := ofNat_shiftLeft_or_shiftRight v1 v2 6 2 4 (by decide)
  have h2 := ofNat_shiftLeft_or_shiftRight (v2.extractLsb' 0 4) v3 4 4 2 (by decide)
  have h3 := ofNat_shiftLeft_or_shiftRight (v3.extractLsb' 0 2) v4 2 6 0 (by decide)
  simp only [BitVec.extractLsb'_eq_self, Nat.shiftRight_zero] at h1 h2 h3
  rw [← h1, ← h2, ← h3, ← toNat_and_mask v2 (mask := 0x0F) rfl, ← toNat_and_mask v3 (mask := 0x03) rfl]
  rfl

/-- The bytes of a short group are the first ones of the full group (30_encoding.md R105). -/
theorem unpack64_short (v1 v2 v3 v4 : Digit64) : ∀ k ∈ [2, 3],
    unpack64 v1 v2 v3 v4 k = (unpack64 v1 v2 v3 v4 4).take (k - 1) := by
  simp [unpack64]

/-- The five bytes of a full group (30_encoding.md R109), as slices of its digits. -/
theorem unpack32_full (c1 c2 c3 c4 c5 c6 c7 c8 : Digit32) : unpack32 c1 c2 c3 c4 c5 c6 c7 c8 8 =
    [c1 ++ c2.extractLsb' 2 3, c2.extractLsb' 0 2 ++ c3 ++ c4.extractLsb' 4 1, c4.extractLsb' 0 4 ++ c5.extractLsb' 1 4,
      c5.extractLsb' 0 1 ++ c6 ++ c7.extractLsb' 3 2, c7.extractLsb' 0 3 ++ c8] := by
  have h1 := ofNat_shiftLeft_or_shiftRight c1 c2 5 3 2 (by decide)
  have h2 := ofNat_shiftLeft_or_shiftRight (c2.extractLsb' 0 2 ++ c3) c4 7 1 4 (by decide)
  have h3 := ofNat_shiftLeft_or_shiftRight (c4.extractLsb' 0 4) c5 4 4 1 (by decide)
  have h4 := ofNat_shiftLeft_or_shiftRight (c5.extractLsb' 0 1 ++ c6) c7 6 2 3 (by decide)
  have h5 := ofNat_shiftLeft_or_shiftRight (c7.extractLsb' 0 3) c8 3 5 0 (by decide)
  simp only [BitVec.extractLsb'_eq_self, Nat.shiftRight_zero, BitVec.toNat_append, Nat.shiftLeft_or_distrib,
    ← Nat.shiftLeft_add] at h1 h2 h3 h4 h5
  rw [← h1, ← h2, ← h3, ← h4, ← h5, ← toNat_and_mask c2 (mask := 0x03) rfl, ← toNat_and_mask c4 (mask := 0x0F) rfl,
    ← toNat_and_mask c5 (mask := 0x01) rfl, ← toNat_and_mask c7 (mask := 0x07) rfl]
  rfl

/-- The bytes of a short group are the first ones of the full group (30_encoding.md R109). -/
theorem unpack32_short (c1 c2 c3 c4 c5 c6 c7 c8 : Digit32) : ∀ k ∈ [2, 4, 5, 7],
    unpack32 c1 c2 c3 c4 c5 c6 c7 c8 k = (unpack32 c1 c2 c3 c4 c5 c6 c7 c8 8).take (5 * k / 8) := by
  simp [unpack32]

/-- A full group comes back: every bit of a byte is where its slices put it. -/
theorem unpack64_pack64 {b1 b2 b3 : Byte} {v1 v2 v3 v4 : Digit64} (h : pack64 b1 b2 b3 = [v1, v2, v3, v4]) :
    unpack64 v1 v2 v3 v4 4 = [b1, b2, b3] := by
  rw [pack64_eq_slices] at h
  obtain ⟨rfl, rfl, rfl, rfl⟩ := by simpa only [List.cons.injEq, and_true] using h
  rw [unpack64_full]
  congr 3
  all_goals
    ext i hi
    grind

/-- A full group comes back: every bit of a byte is where its slices put it. -/
theorem unpack32_pack32 {b1 b2 b3 b4 b5 : Byte} {c1 c2 c3 c4 c5 c6 c7 c8 : Digit32}
    (h : pack32 b1 b2 b3 b4 b5 = [c1, c2, c3, c4, c5, c6, c7, c8]) :
    unpack32 c1 c2 c3 c4 c5 c6 c7 c8 8 = [b1, b2, b3, b4, b5] := by
  rw [pack32_eq_slices] at h
  obtain ⟨rfl, rfl, rfl, rfl, rfl, rfl, rfl, rfl⟩ := by simpa only [List.cons.injEq, and_true] using h
  rw [unpack32_full]
  congr 5
  all_goals
    ext i hi
    grind

end Groups

/-- Settles O35: the full group comes back, and a short one gives the first bytes of it (so the missing bytes, taken as 0 when
packed, are not even looked at). -/
theorem unpackInvertsPack : Obligations.UnpackInvertsPack := by
  refine ⟨fun b1 b2 b3 v1 v2 v3 v4 h => ?_, fun b1 b2 b3 b4 b5 c1 c2 c3 c4 c5 c6 c7 c8 h => ?_⟩
  · have hfull := unpack64_pack64 h
    have hshort := unpack64_short v1 v2 v3 v4
    rw [hfull] at hshort
    exact ⟨hfull, fun _ => hshort 3 (by decide), fun _ _ => hshort 2 (by decide)⟩
  · have hfull := unpack32_pack32 h
    have hshort := unpack32_short c1 c2 c3 c4 c5 c6 c7 c8
    rw [hfull] at hshort
    exact ⟨hfull, fun _ => hshort 7 (by decide), fun _ _ => hshort 5 (by decide), fun _ _ _ => hshort 4 (by decide),
      fun _ _ _ _ => hshort 2 (by decide)⟩

section Encoders

/-! The registers of an encoder after a whole message: its output is `enc64` (41_base64.md R140), `enc32` (42_base32.md R170). -/

variable {i : Instr} {s : State}

/-- The symbols of a message on the registers of B64E, each with the host's count of it. -/
def B64E.symbols (message : List Byte) (u : B64E) : B64E :=
  message.foldl (fun r x => B64E.symbol x { r with port := r.port.count }) u

/-- The symbols of a message on the registers of B32E, each with the host's count of it. -/
def B32E.symbols (message : List Byte) (u : B32E) : B32E :=
  message.foldl (fun r x => B32E.symbol x { r with port := r.port.count }) u

/-- An operation of a unit that may start, and a message that fits: its transaction. -/
theorem exec_of_unit {u : UnitId} (hu : i.unit = u) (hstart : s.canStart u)
    (hfits : s.params.admits i.message.length = true) :
    exec i s = .next (afterTransaction u i.cfg i.message s) := by
  subst hu
  exact exec_eq_next hstart.1 hstart.2 hfits

theorem exec_b64e (hu : i.unit = .b64e) (hstart : s.canStart .b64e) (hfits : s.params.admits i.message.length = true) :
    ∃ t, exec i s = .next t
      ∧ t.b64e = (B64E.symbols i.message (B64E.cleared (s.b64e.port.onStart i.cfg))).finish :=
  ⟨_, exec_of_unit hu hstart hfits, congrArg B64E.finish (applySymbols_b64e i.message _)⟩

theorem exec_b32e (hu : i.unit = .b32e) (hstart : s.canStart .b32e) (hfits : s.params.admits i.message.length = true) :
    ∃ t, exec i s = .next t
      ∧ t.b32e = (B32E.symbols i.message (B32E.cleared (s.b32e.port.onStart i.cfg))).finish :=
  ⟨_, exec_of_unit hu hstart hfits, congrArg B32E.finish (applySymbols_b32e i.message _)⟩

theorem B64E.finish_out (u : B64E) : u.finish.port.out = u.port.obuf ++ u.tail := rfl

theorem B32E.finish_out (u : B32E) : u.finish.port.out = u.port.obuf ++ u.tail := rfl

/-- A full group, taken by B64E between groups, is packed and looked up. -/
theorem B64E.symbols_group (b1 b2 b3 : Byte) (rest : List Byte) {u : B64E} (hcnt : u.cnt = 0) :
    B64E.symbols (b1 :: b2 :: b3 :: rest) u =
      B64E.symbols rest
        { port := u.port.count.count.count.append ((pack64 b1 b2 b3).map (e64 (variantOf u.port.cfg)))
          b := (u.b.setIfInBounds 0 b1).setIfInBounds 1 b2
          cnt := 0 } := by
  simp [B64E.symbols, B64E.symbol, hcnt]

/-- The same for B32E. -/
theorem B32E.symbols_group (b1 b2 b3 b4 b5 : Byte) (rest : List Byte) {u : B32E} (hcnt : u.cnt = 0) :
    B32E.symbols (b1 :: b2 :: b3 :: b4 :: b5 :: rest) u =
      B32E.symbols rest
        { port := u.port.count.count.count.count.count.append
            ((pack32 b1 b2 b3 b4 b5).map (e32 (variantOf u.port.cfg)))
          b := (((u.b.setIfInBounds 0 b1).setIfInBounds 1 b2).setIfInBounds 2 b3).setIfInBounds 3 b4
          cnt := 0 } := by
  simp [B32E.symbols, B32E.symbol, hcnt]

/-- From between groups on, B64E puts out `enc64` of the symbols. -/
theorem B64E.symbols_finish_out (message : List Byte) {u : B64E} (hcnt : u.cnt = 0) :
    (B64E.symbols message u).finish.port.out =
      u.port.obuf ++ enc64 (variantOf u.port.cfg) (flagOf u.port.cfg) message := by
  induction message using enc64.induct generalizing u with
  | case1 => simp [B64E.symbols, B64E.finish_out, B64E.tail, enc64, hcnt]
  | case2 b1 =>
    by_cases hpad : flagOf u.port.cfg = 1#1 <;>
      simp [B64E.symbols, B64E.symbol, B64E.finish_out, B64E.tail, enc64, hcnt, hpad]
  | case3 b1 b2 =>
    by_cases hpad : flagOf u.port.cfg = 1#1 <;>
      simp [B64E.symbols, B64E.symbol, B64E.finish_out, B64E.tail, enc64, hcnt, hpad]
  | case4 b1 b2 b3 rest ih =>
    rw [B64E.symbols_group b1 b2 b3 rest hcnt, ih rfl]
    simp [enc64]

/-- From between groups on, B32E puts out `enc32` of the symbols: what `END` adds for the bytes it finds is the short group. -/
theorem B32E.symbols_finish_out (message : List Byte) {u : B32E} (hcnt : u.cnt = 0) :
    (B32E.symbols message u).finish.port.out =
      u.port.obuf ++ enc32 (variantOf u.port.cfg) (flagOf u.port.cfg) message := by
  induction message using enc32.induct generalizing u with
  | case1 => simp [B32E.symbols, B32E.finish_out, B32E.tail, enc32, hcnt]
  | case2 b1 =>
    simp [B32E.symbols, B32E.symbol, B32E.finish_out, B32E.tail, B32E.held, enc32, encShort32, hcnt]
  | case3 b1 b2 =>
    simp [B32E.symbols, B32E.symbol, B32E.finish_out, B32E.tail, B32E.held, enc32, encShort32, hcnt]
  | case4 b1 b2 b3 =>
    simp [B32E.symbols, B32E.symbol, B32E.finish_out, B32E.tail, B32E.held, enc32, encShort32, hcnt]
  | case5 b1 b2 b3 b4 =>
    simp [B32E.symbols, B32E.symbol, B32E.finish_out, B32E.tail, B32E.held, enc32, encShort32, hcnt]
  | case6 b1 b2 b3 b4 b5 rest ih =>
    rw [B32E.symbols_group b1 b2 b3 b4 b5 rest hcnt, ih rfl]
    simp [enc32]

/-- A Base64 encode operation puts out `enc64` of its message (41_base64.md R143 to R146). -/
theorem exec_b64e_out (hu : i.unit = .b64e) (hstart : s.canStart .b64e)
    (hfits : s.params.admits i.message.length = true) {variant pad : BitVec 1} (hv : variantOf i.cfg = variant)
    (hp : flagOf i.cfg = pad) : ∃ t, exec i s = .next t ∧ t.b64e.port.out = enc64 variant pad i.message := by
  obtain ⟨t, ht, hreg⟩ := exec_b64e hu hstart hfits
  exact ⟨t, ht, by rw [hreg, B64E.symbols_finish_out _ rfl, ← hv, ← hp]; rfl⟩

/-- A Base32 encode operation puts out `enc32` of its message (42_base32.md R173 to R176). -/
theorem exec_b32e_out (hu : i.unit = .b32e) (hstart : s.canStart .b32e)
    (hfits : s.params.admits i.message.length = true) {variant pad : BitVec 1} (hv : variantOf i.cfg = variant)
    (hp : flagOf i.cfg = pad) : ∃ t, exec i s = .next t ∧ t.b32e.port.out = enc32 variant pad i.message := by
  obtain ⟨t, ht, hreg⟩ := exec_b32e hu hstart hfits
  exact ⟨t, ht, by rw [hreg, B32E.symbols_finish_out _ rfl, ← hv, ← hp]; rfl⟩

/-- `enc32` of a short message without padding (42_base32.md R170). -/
theorem encShort32_nopad (v : BitVec 1) (b1 b2 b3 b4 : Byte) (r : Nat) :
    encShort32 v 0 b1 b2 b3 b4 r = ((pack32 b1 b2 b3 b4 0).take (dataChars32 r)).map (e32 v) :=
  List.append_nil _

end Encoders

/-- Settles O33: a short message is encoded as `enc64` says, and the formulas are the slices. -/
theorem base64PackIsTheSlices : Obligations.Base64PackIsTheSlices := by
  refine ⟨fun b1 b2 s hstart hfits => ?_, fun b1 b2 b3 => ⟨pack64_toNat b1 b2 b3, pack64_eq_slices b1 b2 b3⟩⟩
  have encodes (m : List Byte) (hm : m.length ≤ 2) :
      ∃ t, exec (.b64encStdNopad m) s = .next t ∧ t.b64e.port.out = enc64 0 0 m :=
    exec_b64e_out (i := .b64encStdNopad m) rfl hstart (admits_mono hm hfits) rfl (by decide : flagOf 0b00 = 0)
  refine ⟨?_, ?_⟩
  · simpa [enc64] using encodes [b1] (by simp)
  · simpa [enc64] using encodes [b1, b2] (by simp)

/-- Settles O34: a short message is encoded as `enc32` says, and the formulas are the slices. -/
theorem base32PackIsTheSlices : Obligations.Base32PackIsTheSlices := by
  refine ⟨fun b1 b2 b3 b4 s hstart hfits => ?_,
    fun b1 b2 b3 b4 b5 => ⟨pack32_toNat b1 b2 b3 b4 b5, pack32_eq_slices b1 b2 b3 b4 b5⟩⟩
  have encodes (m : List Byte) (hm : m.length ≤ 4) :
      ∃ t, exec (.b32encStdNopad m) s = .next t ∧ t.b32e.port.out = enc32 0 0 m :=
    exec_b32e_out (i := .b32encStdNopad m) rfl hstart (admits_mono hm hfits) rfl (by decide : flagOf 0b00 = 0)
  refine ⟨?_, ?_, ?_, ?_⟩
  · simpa only [enc32, encShort32_nopad, dataChars32] using encodes [b1] (by simp)
  · simpa only [enc32, encShort32_nopad, dataChars32] using encodes [b1, b2] (by simp)
  · simpa only [enc32, encShort32_nopad, dataChars32] using encodes [b1, b2, b3] (by simp)
  · simpa only [enc32, encShort32_nopad, dataChars32] using encodes [b1, b2, b3, b4] (by simp)

end Sys2Proof.Machine
end

section
/-! SUPPORT. A decoder from between groups to the end of a text whose last group is short (41_base64.md R151, R153; 42_base32.md R181,
R183), and the fill bits of that group (30_encoding.md R111). -/

namespace Sys2Proof.Machine

open Sys2Proof

section FillBits

/-- Two values that differ in the bits of a mask only have the same slice where the mask is 0. -/
theorem extractLsb'_eq_of_or_eq {p w start len : Nat} {d d' fill : BitVec p} (h : d ||| fill = d' ||| fill)
    (hfill : ∀ j < len, fill.getLsbD (start + j) = false) :
    (d.setWidth w).extractLsb' start len = (d'.setWidth w).extractLsb' start len := by
  refine BitVec.eq_of_getLsbD_eq fun j hj => ?_
  have hbit : d.getLsbD (start + j) = d'.getLsbD (start + j) := by
    simpa [hfill j hj] using congrArg (·.getLsbD (start + j)) h
  simp [BitVec.getLsbD_extractLsb', BitVec.getLsbD_setWidth, hbit]

/-- The bytes of a group of `k + 1` Base64 data characters: the values of the first `k` stand in the cells, `y` is the entry of `D64`
for the last one. -/
def lastBytes64 (cells : Vector Digit64 4) (k : Nat) (y : Byte) : List Byte :=
  let v := cells.setIfInBounds k (y.setWidth 6)
  unpack64 v[0] v[1] v[2] v[3] (k + 1)

/-- The fill bits of the last digit go into no byte. -/
theorem lastBytes64_fill {k : Nat} {y y' fill : Byte} (cells : Vector Digit64 4)
    (hk : (k, fill) ∈ [(1, 0x0F), (2, 0x03)]) (h : y ||| fill = y' ||| fill) :
    lastBytes64 cells k y = lastBytes64 cells k y' := by
  simp only [List.mem_cons, Prod.mk.injEq, List.not_mem_nil, or_false] at hk
  rcases hk with ⟨rfl, rfl⟩ | ⟨rfl, rfl⟩
  · have hslice := extractLsb'_eq_of_or_eq (w := 6) (start := 4) (len := 2) h (by decide)
    simp [lastBytes64, unpack64_short _ _ _ _ 2 (by decide), unpack64_full, hslice]
  · have hslice := extractLsb'_eq_of_or_eq (w := 6) (start := 2) (len := 4) h (by decide)
    simp [lastBytes64, unpack64_short _ _ _ _ 3 (by decide), unpack64_full, hslice]

theorem lastBytes64_length {k : Nat} (hk : k ∈ [1, 2]) (cells : Vector Digit64 4) (y : Byte) :
    (lastBytes64 cells k y).length = k := by
  simp only [List.mem_cons, List.not_mem_nil, or_false] at hk
  rcases hk with rfl | rfl <;> rfl

/-- The same for a group of `k + 1` Base32 data characters. -/
def lastBytes32 (cells : Vector Digit32 8) (k : Nat) (y : Byte) : List Byte :=
  let g := cells.setIfInBounds k (y.setWidth 5)
  unpack32 g[0] g[1] g[2] g[3] g[4] g[5] g[6] g[7] (k + 1)

/-- The fill bits of the last digit go into no byte. -/
theorem lastBytes32_fill {k : Nat} {y y' fill : Byte} (cells : Vector Digit32 8)
    (hk : (k, fill) ∈ [(1, 0x03), (3, 0x0F), (4, 0x01), (6, 0x07)]) (h : y ||| fill = y' ||| fill) :
    lastBytes32 cells k y = lastBytes32 cells k y' := by
  simp only [List.mem_cons, Prod.mk.injEq, List.not_mem_nil, or_false] at hk
  rcases hk with ⟨rfl, rfl⟩ | ⟨rfl, rfl⟩ | ⟨rfl, rfl⟩ | ⟨rfl, rfl⟩
  · have hslice := extractLsb'_eq_of_or_eq (w := 5) (start := 2) (len := 3) h (by decide)
    simp [lastBytes32, unpack32_short _ _ _ _ _ _ _ _ 2 (by decide), unpack32_full, hslice]
  · have hslice := extractLsb'_eq_of_or_eq (w := 5) (start := 4) (len := 1) h (by decide)
    simp [lastBytes32, unpack32_short _ _ _ _ _ _ _ _ 4 (by decide), unpack32_full, hslice]
  · have hslice := extractLsb'_eq_of_or_eq (w := 5) (start := 1) (len := 4) h (by decide)
    simp [lastBytes32, unpack32_short _ _ _ _ _ _ _ _ 5 (by decide), unpack32_full, hslice]
  · have hslice := extractLsb'_eq_of_or_eq (w := 5) (start := 3) (len := 2) h (by decide)
    simp [lastBytes32, unpack32_short _ _ _ _ _ _ _ _ 7 (by decide), unpack32_full, hslice]

theorem lastBytes32_length {k : Nat} (hk : k ∈ [1, 3, 4, 6]) (cells : Vector Digit32 8) (y : Byte) :
    (lastBytes32 cells k y).length = 5 * (k + 1) / 8 := by
  simp only [List.mem_cons, List.not_mem_nil, or_false] at hk
  rcases hk with rfl | rfl | rfl | rfl <;> rfl

/-- A group of 2, 4, 5 or 7 data characters carries bytes in all of them, whatever `B32_ODD_COUNT` is (42_base32.md R181). -/
theorem usable32_of_whole {odd : OddCount} {k : Nat} (hk : k ∈ [1, 3, 4, 6]) : usable32 odd (k + 1) = some (k + 1) := by
  simp only [List.mem_cons, List.not_mem_nil, or_false] at hk
  rcases hk with rfl | rfl | rfl | rfl <;> rfl

end FillBits

section Characters

variable {v : BitVec 1} {x : Byte}

/-- A character of an alphabet is no whitespace and no padding (20_memory.md R74). -/
theorem not_ws_and_not_pad_of_d64_ne (h : d64 v x ≠ sentinel) : isWs x = false ∧ isPad x = false := by
  revert v x
  decide

theorem not_ws_and_not_pad_of_d32_ne (h : d32 v x ≠ sentinel) : isWs x = false ∧ isPad x = false := by
  revert v x
  decide

@[simp] theorem isPad_padChar : isPad padChar = true := rfl

@[simp] theorem isWs_padChar : isWs padChar = false := rfl

end Characters

section Operations

/-- `op` gives each message an operation of the unit `u`, with the same `cfg` and the variant `v` (30_encoding.md R121). -/
structure OperationOf (op : List Byte → Instr) (u : UnitId) (v : BitVec 1) : Prop where
  unit : ∀ text, (op text).unit = u
  cfg : ∀ text, (op text).cfg = (op []).cfg
  message : ∀ text, (op text).message = text
  variant : variantOf (op []).cfg = v

variable {op : List Byte → Instr} {v : BitVec 1}

theorem b64d_operationOf (hop : op = .b64decStd ∧ v = 0 ∨ op = .b64decUrl ∧ v = 1) : OperationOf op .b64d v := by
  rcases hop with ⟨rfl, rfl⟩ | ⟨rfl, rfl⟩ <;> exact ⟨fun _ => rfl, fun _ => rfl, fun _ => rfl, rfl⟩

theorem b32d_operationOf (hop : op = .b32decStd ∧ v = 0 ∨ op = .b32decHex ∧ v = 1) : OperationOf op .b32d v := by
  rcases hop with ⟨rfl, rfl⟩ | ⟨rfl, rfl⟩ <;> exact ⟨fun _ => rfl, fun _ => rfl, fun _ => rfl, rfl⟩

/-- The `cfg` of a unit in the middle of a transaction is that of its `START` (10_state.md R34). -/
theorem applySymbols_applyStart_cfg (u : UnitId) (cfg : Cfg) (text : List Byte) (s : State) :
    (((s.applyStart u cfg).applySymbols u text).port u).cfg = cfg := by
  obtain ⟨ys, hport⟩ := applySymbols_port u text (s.applyStart u cfg)
  rw [State.applySymbols, hport, applyStart_port, onStart_cfg]

end Operations

section B64D

variable {v : BitVec 1} {bytes : List Byte} {k p : Nat} {u : B64D} {x : Byte}

/-- The symbols of a text on the registers of B64D, each with the host's count of it. -/
def B64D.symbols (text : List Byte) (u : B64D) : B64D :=
  text.foldl (fun r x => B64D.symbol x { r with port := r.port.count }) u

@[simp] theorem B64D.symbols_nil (u : B64D) : B64D.symbols [] u = u := rfl

@[simp] theorem B64D.symbols_cons (x : Byte) (rest : List Byte) (u : B64D) :
    B64D.symbols (x :: rest) u = B64D.symbols rest (B64D.symbol x { u with port := u.port.count }) := rfl

@[simp] theorem B64D.symbols_append (text rest : List Byte) (u : B64D) :
    B64D.symbols (text ++ rest) u = B64D.symbols rest (B64D.symbols text u) := List.foldl_append ..

/-- B64D within a group that goes on: `k` data characters and `p` padding characters of it taken, and `bytes` in `OBUF` from the
groups before. -/
structure B64D.InGroup (v : BitVec 1) (bytes : List Byte) (k p : Nat) (u : B64D) : Prop where
  variant : variantOf u.port.cfg = v
  obuf : u.port.obuf = bytes
  cnt : u.cnt.toNat = k
  padcnt : u.padcnt.toNat = p
  closed : u.closed = false
  fail : u.fail = false

/-- B64D between groups, with `bytes` in `OBUF`. -/
structure B64D.Between (bytes : List Byte) (u : B64D) : Prop where
  obuf : u.port.obuf = bytes
  cnt : u.cnt = 0
  padcnt : u.padcnt = 0
  fail : u.fail = false

/-- `END` now succeeds with `bytes`. -/
def B64D.Succeeds (bytes : List Byte) (u : B64D) : Prop := u.finish.port.ok = true ∧ u.finish.port.out = bytes

theorem B64D.InGroup.count (h : u.InGroup v bytes k p) : { u with port := u.port.count }.InGroup v bytes k p :=
  ⟨h.variant, h.obuf, h.cnt, h.padcnt, h.closed, h.fail⟩

/-- A data character that does not complete its group goes to the next cell (41_base64.md R151). -/
theorem B64D.InGroup.symbol_data (h : u.InGroup v bytes k 0) (hk : k < 3) (hx : d64 v x ≠ sentinel) :
    B64D.symbol x u = { u with v := u.v.setIfInBounds k ((d64 v x).setWidth 6), cnt := u.cnt + 1 } := by
  obtain ⟨hv, -, hcnt, hpad, hclosed, hfail⟩ := h
  obtain ⟨hws, hispad⟩ := not_ws_and_not_pad_of_d64_ne hx
  have hpad0 : u.padcnt = 0 := BitVec.eq_of_toNat_eq hpad
  have hcnt3 : u.cnt ≠ 3#2 := by bv_omega
  simp [B64D.symbol, hfail, hws, hclosed, hispad, hv, hx, hpad0, hcnt3, hcnt]

theorem B64D.InGroup.data (h : u.InGroup v bytes k 0) (hk : k < 3) (hx : d64 v x ≠ sentinel) :
    (B64D.symbol x u).InGroup v bytes (k + 1) 0 := by
  rw [h.symbol_data hk hx]
  have hcnt := h.cnt
  exact ⟨h.variant, h.obuf, by simp only; bv_omega, h.padcnt, h.closed, h.fail⟩

theorem B64D.InGroup.data_run (h : u.InGroup v bytes k 0) {g : List Byte} (hk : k + g.length ≤ 3)
    (hg : dataRun64 v g = true) : (B64D.symbols g u).InGroup v bytes (k + g.length) 0 := by
  induction g generalizing u k with
  | nil => exact h
  | cons x rest ih =>
    simp only [dataRun64, List.all_cons, Bool.and_eq_true, bne_iff_ne] at hg
    rw [List.length_cons] at hk ⊢
    rw [← Nat.add_assoc, Nat.add_right_comm]
    exact ih (h.count.data (by omega) hg.1) (by omega) hg.2

/-- The padding of a short group: its last `=` appends the bytes of the group (41_base64.md R151). -/
theorem B64D.InGroup.padding (h : u.InGroup v bytes k p) (hk : 2 ≤ k) {n : Nat} (hn : k + p + (n + 1) = 4) :
    (B64D.symbols (List.replicate (n + 1) padChar) u).Between
      (bytes ++ unpack64 u.v[0] u.v[1] u.v[2] u.v[3] k) := by
  induction n generalizing u p with
  | zero =>
    obtain ⟨-, hobuf, hcnt, hpad, hclosed, hfail⟩ := h
    have hsymbol : B64D.symbol padChar { u with port := u.port.count } =
        { u with
          port := u.port.count.append (unpack64 u.v[0] u.v[1] u.v[2] u.v[3] k)
          cnt := 0
          padcnt := 0
          closed := true } := by
      simp [B64D.symbol, hfail, hclosed, hcnt, hpad, hn, Nat.not_lt.2 hk]
    rw [List.replicate_one, B64D.symbols_cons, hsymbol]
    exact ⟨by simp [hobuf], rfl, rfl, hfail⟩
  | succ n ih =>
    obtain ⟨hv, hobuf, hcnt, hpad, hclosed, hfail⟩ := h
    have hmore : k + p + 1 ≠ 4 := by omega
    have hpad' : (1 : BitVec 1).toNat = p + 1 := by simp; omega
    have hsymbol : B64D.symbol padChar { u with port := u.port.count } = { u with port := u.port.count, padcnt := 1 } := by
      simp [B64D.symbol, hfail, hclosed, hcnt, hpad, hmore, Nat.not_lt.2 hk]
    rw [List.replicate_succ, B64D.symbols_cons, hsymbol]
    exact ih (u := { u with port := u.port.count, padcnt := 1 }) ⟨hv, hobuf, hcnt, hpad', hclosed, hfail⟩ (by omega)

/-- Whitespace between groups changes nothing (41_base64.md R151). -/
theorem B64D.Between.whitespace (h : u.Between bytes) {w : List Byte} (hw : wsRun w = true) :
    (B64D.symbols w u).Between bytes := by
  induction w generalizing u with
  | nil => exact h
  | cons x rest ih =>
    simp only [wsRun, List.all_cons, Bool.and_eq_true] at hw
    obtain ⟨hobuf, hcnt, hpad, hfail⟩ := h
    have hsymbol : B64D.symbol x { u with port := u.port.count } = { u with port := u.port.count } := by
      simp [B64D.symbol, hfail, hw.1, hcnt, hpad]
    rw [B64D.symbols_cons, hsymbol]
    exact ih ⟨hobuf, hcnt, hpad, hfail⟩ hw.2

theorem B64D.Between.succeeds (h : u.Between bytes) : u.Succeeds bytes := by
  obtain ⟨hobuf, hcnt, hpad, hfail⟩ := h
  simp [B64D.Succeeds, B64D.finish, hfail, hpad, hcnt, hobuf]

/-- `END` takes an unpadded short group in the URL variant (41_base64.md R153). -/
theorem B64D.InGroup.succeeds (h : u.InGroup 1 bytes k 0) (hk : k = 2 ∨ k = 3) :
    u.Succeeds (bytes ++ unpack64 u.v[0] u.v[1] u.v[2] u.v[3] k) := by
  obtain ⟨hv, hobuf, hcnt, hpad, -, hfail⟩ := h
  have hpad0 : u.padcnt = 0 := BitVec.eq_of_toNat_eq hpad
  rcases hk with rfl | rfl
  · have hcnt2 : u.cnt = 2 := BitVec.eq_of_toNat_eq hcnt
    simp [B64D.Succeeds, B64D.finish, hfail, hpad0, hcnt2, hv, hobuf]
  · have hcnt3 : u.cnt = 3 := BitVec.eq_of_toNat_eq hcnt
    simp [B64D.Succeeds, B64D.finish, hfail, hpad0, hcnt3, hv, hobuf]

/-- A short last group `xs`, `x` after complete groups: its bytes, padded and with whitespace after it, or unpadded in the URL
variant (41_base64.md R154). -/
theorem B64D.InGroup.short_group (h : u.InGroup v bytes 0 0) {xs : List Byte} (hlen : xs.length ∈ [1, 2])
    (hxs : dataRun64 v xs = true) (hx : d64 v x ≠ sentinel) :
    (∀ w, wsRun w = true →
      (B64D.symbols (xs ++ [x] ++ List.replicate (3 - xs.length) padChar ++ w) u).Succeeds
        (bytes ++ lastBytes64 (B64D.symbols xs u).v xs.length (d64 v x)))
    ∧ (v = 1 → (B64D.symbols (xs ++ [x]) u).Succeeds
        (bytes ++ lastBytes64 (B64D.symbols xs u).v xs.length (d64 v x))) := by
  simp only [List.mem_cons, List.not_mem_nil, or_false] at hlen
  have hrun : (B64D.symbols xs u).InGroup v bytes xs.length 0 := by
    simpa using h.data_run (by omega) hxs
  have hgroup := hrun.count.data (by omega) hx
  have hcells := hrun.count.symbol_data (x := x) (by omega) hx
  have hpads : 3 - xs.length = 2 - xs.length + 1 := by omega
  constructor
  · intro w hw
    have hpadded := ((hgroup.padding (n := 2 - xs.length) (by omega) (by omega)).whitespace hw).succeeds
    rw [hpads, B64D.symbols_append, B64D.symbols_append, B64D.symbols_append, B64D.symbols_cons, B64D.symbols_nil]
    rw [hcells] at hpadded ⊢
    exact hpadded
  · rintro rfl
    have hunpadded := hgroup.succeeds (by omega)
    rw [B64D.symbols_append, B64D.symbols_cons, B64D.symbols_nil]
    rw [hcells] at hunpadded ⊢
    exact hunpadded

/-- What a transaction does to the registers of B64D. -/
theorem afterTransaction_b64d (cfg : Cfg) (text : List Byte) (s : State) :
    (afterTransaction .b64d cfg text s).b64d = (B64D.symbols text (s.applyStart .b64d cfg).b64d).finish :=
  congrArg B64D.finish (applySymbols_b64d text _)

/-- Two texts of a decode operation that go on from the same state, and end with the same bytes, are decoded alike
(41_base64.md R155, R156). -/
theorem exec_b64d_alike {op : List Byte → Instr} (hop : OperationOf op .b64d v) {s : State} {a r r' : List Byte} {n : Nat}
    (hstart : s.canStart .b64d) (hfits : s.params.admits (a.length + n) = true) (hr : r.length ≤ n) (hr' : r'.length ≤ n)
    (h : (B64D.symbols r ((s.applyStart .b64d (op []).cfg).applySymbols .b64d a).b64d).Succeeds bytes)
    (h' : (B64D.symbols r' ((s.applyStart .b64d (op []).cfg).applySymbols .b64d a).b64d).Succeeds bytes) :
    ∃ t t', exec (op (a ++ r)) s = .next t ∧ exec (op (a ++ r')) s = .next t'
      ∧ t.b64d.port.ok = true ∧ t'.b64d.port.ok = true
      ∧ t'.b64d.port.out = t.b64d.port.out ∧ t.b64d.port.outLen = bytes.length := by
  have hexec (r : List Byte) (hr : r.length ≤ n) :
      exec (op (a ++ r)) s = .next (afterTransaction .b64d (op []).cfg (a ++ r) s) := by
    rw [exec_of_unit (hop.unit _) hstart, hop.cfg, hop.message]
    rw [hop.message, List.length_append]
    exact admits_mono (by omega) hfits
  have hreg (r : List Byte) : (afterTransaction .b64d (op []).cfg (a ++ r) s).b64d =
      (B64D.symbols r ((s.applyStart .b64d (op []).cfg).applySymbols .b64d a).b64d).finish := by
    rw [afterTransaction_b64d, B64D.symbols_append, State.applySymbols, applySymbols_b64d]
    rfl
  obtain ⟨hok, hout⟩ := h
  obtain ⟨hok', hout'⟩ := h'
  rw [← hreg] at hok hout hok' hout'
  exact ⟨_, _, hexec r hr, hexec r' hr', hok, hok', hout'.trans hout.symm, congrArg List.length hout⟩

end B64D

/-- Settles O36: both texts end as `short_group` says, and `lastBytes64` does not see the fill bits. -/
theorem fillBitsAreIgnored : Obligations.FillBitsAreIgnored := by
  intro op v hop a xs w x x' fill s hstart hfits hw hfill hdata hor m hcnt hpad hclosed hfail
  have hop := b64d_operationOf hop
  have hlen : xs.length ∈ [1, 2] := List.mem_map_of_mem (f := Prod.fst) hfill
  simp only [dataRun64, List.all_append, List.all_cons, Bool.and_eq_true, bne_iff_ne] at hdata
  obtain ⟨hxs, hx, hx', -⟩ := hdata
  have hvariant : variantOf m.port.cfg = v :=
    (congrArg variantOf (applySymbols_applyStart_cfg .b64d (op []).cfg a s)).trans hop.variant
  have hm : m.InGroup v m.port.obuf 0 0 :=
    ⟨hvariant, rfl, congrArg BitVec.toNat hcnt, congrArg BitVec.toNat hpad, hclosed, hfail⟩
  obtain ⟨hpadded, hunpadded⟩ := hm.short_group hlen hxs hx
  obtain ⟨hpadded', hunpadded'⟩ := hm.short_group hlen hxs hx'
  rw [← lastBytes64_fill _ hfill hor] at hpadded' hunpadded'
  have hbytes : (m.port.obuf ++ lastBytes64 (B64D.symbols xs m).v xs.length (d64 v x)).length =
      m.port.obuf.length + xs.length := by rw [List.length_append, lastBytes64_length hlen]
  have hle : xs.length ≤ 2 := by simp at hlen; omega
  rw [← hbytes]
  rw [Nat.add_assoc] at hfits
  simp only [List.append_assoc] at hpadded hunpadded hpadded' hunpadded' ⊢
  constructor
  · refine exec_b64d_alike hop hstart hfits ?_ ?_ (hpadded w hw) (hpadded' w hw)
    all_goals
      simp
      omega
  · intro hv
    refine exec_b64d_alike hop hstart hfits ?_ ?_ (hunpadded hv) (hunpadded' hv)
    all_goals
      simp
      omega

section B32D

variable {odd : OddCount} {v : BitVec 1} {bytes : List Byte} {k p : Nat} {u : B32D} {x : Byte}

/-- The symbols of a text on the registers of B32D, each with the host's count of it. -/
def B32D.symbols (odd : OddCount) (text : List Byte) (u : B32D) : B32D :=
  text.foldl (fun r x => B32D.symbol odd x { r with port := r.port.count }) u

@[simp] theorem B32D.symbols_nil (u : B32D) : B32D.symbols odd [] u = u := rfl

@[simp] theorem B32D.symbols_cons (x : Byte) (rest : List Byte) (u : B32D) :
    B32D.symbols odd (x :: rest) u = B32D.symbols odd rest (B32D.symbol odd x { u with port := u.port.count }) := rfl

@[simp] theorem B32D.symbols_append (text rest : List Byte) (u : B32D) :
    B32D.symbols odd (text ++ rest) u = B32D.symbols odd rest (B32D.symbols odd text u) := List.foldl_append ..

/-- B32D within a group that goes on: `k` data characters and `p` padding characters of it taken, and `bytes` in `OBUF` from the
groups before. -/
structure B32D.InGroup (v : BitVec 1) (bytes : List Byte) (k p : Nat) (u : B32D) : Prop where
  variant : variantOf u.port.cfg = v
  obuf : u.port.obuf = bytes
  cnt : u.cnt.toNat = k
  padcnt : u.padcnt.toNat = p
  closed : u.closed = false
  fail : u.fail = false

/-- B32D between groups, with `bytes` in `OBUF`. -/
structure B32D.Between (bytes : List Byte) (u : B32D) : Prop where
  obuf : u.port.obuf = bytes
  cnt : u.cnt = 0
  padcnt : u.padcnt = 0
  fail : u.fail = false

/-- `END` now succeeds with `bytes`. -/
def B32D.Succeeds (odd : OddCount) (bytes : List Byte) (u : B32D) : Prop :=
  (u.finish odd).port.ok = true ∧ (u.finish odd).port.out = bytes

theorem B32D.InGroup.count (h : u.InGroup v bytes k p) : { u with port := u.port.count }.InGroup v bytes k p :=
  ⟨h.variant, h.obuf, h.cnt, h.padcnt, h.closed, h.fail⟩

/-- A data character that does not complete its group goes to the next cell (42_base32.md R181). -/
theorem B32D.InGroup.symbol_data (h : u.InGroup v bytes k 0) (hk : k < 7) (hx : d32 v x ≠ sentinel) :
    B32D.symbol odd x u = { u with c := u.c.setIfInBounds k ((d32 v x).setWidth 5), cnt := u.cnt + 1 } := by
  obtain ⟨hv, -, hcnt, hpad, hclosed, hfail⟩ := h
  obtain ⟨hws, hispad⟩ := not_ws_and_not_pad_of_d32_ne hx
  have hpad0 : u.padcnt = 0 := BitVec.eq_of_toNat_eq hpad
  have hcnt7 : u.cnt ≠ 7#3 := by bv_omega
  simp [B32D.symbol, hfail, hws, hclosed, hispad, hv, hx, hpad0, hcnt7, hcnt]

theorem B32D.InGroup.data (h : u.InGroup v bytes k 0) (hk : k < 7) (hx : d32 v x ≠ sentinel) :
    (B32D.symbol odd x u).InGroup v bytes (k + 1) 0 := by
  rw [h.symbol_data hk hx]
  have hcnt := h.cnt
  exact ⟨h.variant, h.obuf, by simp only; bv_omega, h.padcnt, h.closed, h.fail⟩

theorem B32D.InGroup.data_run (h : u.InGroup v bytes k 0) {g : List Byte} (hk : k + g.length ≤ 7)
    (hg : dataRun32 v g = true) : (B32D.symbols odd g u).InGroup v bytes (k + g.length) 0 := by
  induction g generalizing u k with
  | nil => exact h
  | cons x rest ih =>
    simp only [dataRun32, List.all_cons, Bool.and_eq_true, bne_iff_ne] at hg
    rw [List.length_cons] at hk ⊢
    rw [← Nat.add_assoc, Nat.add_right_comm]
    exact ih (h.count.data (by omega) hg.1) (by omega) hg.2

/-- The padding of a short group: its last `=` appends the bytes of the group (42_base32.md R181). -/
theorem B32D.InGroup.padding (h : u.InGroup v bytes k p) (hk : 2 ≤ k) (husable : usable32 odd k = some k) {n : Nat}
    (hn : k + p + (n + 1) = 8) :
    (B32D.symbols odd (List.replicate (n + 1) padChar) u).Between (bytes ++ u.unpack k) := by
  induction n generalizing u p with
  | zero =>
    obtain ⟨-, hobuf, hcnt, hpad, hclosed, hfail⟩ := h
    have hsymbol : B32D.symbol odd padChar { u with port := u.port.count } =
        { u with port := u.port.count.append (u.unpack k), cnt := 0, padcnt := 0, closed := true } := by
      simp [B32D.symbol, B32D.unpack, hfail, hclosed, hcnt, hpad, hn, husable, Nat.not_lt.2 hk]
    rw [List.replicate_one, B32D.symbols_cons, hsymbol]
    exact ⟨by simp [hobuf], rfl, rfl, hfail⟩
  | succ n ih =>
    obtain ⟨hv, hobuf, hcnt, hpad, hclosed, hfail⟩ := h
    have hmore : k + p + 1 ≠ 8 := by omega
    have hsymbol : B32D.symbol odd padChar { u with port := u.port.count } =
        { u with port := u.port.count, padcnt := u.padcnt + 1 } := by
      simp [B32D.symbol, hfail, hclosed, hcnt, hpad, hmore, husable, Nat.not_lt.2 hk]
    have hpad' : (u.padcnt + 1).toNat = p + 1 := by bv_omega
    rw [List.replicate_succ, B32D.symbols_cons, hsymbol]
    exact ih (u := { u with port := u.port.count, padcnt := u.padcnt + 1 }) ⟨hv, hobuf, hcnt, hpad', hclosed, hfail⟩
      (by omega)

/-- Whitespace between groups changes nothing (42_base32.md R181). -/
theorem B32D.Between.whitespace (h : u.Between bytes) {w : List Byte} (hw : wsRun w = true) :
    (B32D.symbols odd w u).Between bytes := by
  induction w generalizing u with
  | nil => exact h
  | cons x rest ih =>
    simp only [wsRun, List.all_cons, Bool.and_eq_true] at hw
    obtain ⟨hobuf, hcnt, hpad, hfail⟩ := h
    have hsymbol : B32D.symbol odd x { u with port := u.port.count } = { u with port := u.port.count } := by
      simp [B32D.symbol, hfail, hw.1, hcnt, hpad]
    rw [B32D.symbols_cons, hsymbol]
    exact ih ⟨hobuf, hcnt, hpad, hfail⟩ hw.2

theorem B32D.Between.succeeds (h : u.Between bytes) : u.Succeeds odd bytes := by
  obtain ⟨hobuf, hcnt, hpad, hfail⟩ := h
  simp [B32D.Succeeds, B32D.finish, hfail, hpad, hcnt, hobuf]

/-- `END` takes an unpadded short group (42_base32.md R183). -/
theorem B32D.InGroup.succeeds (h : u.InGroup v bytes k 0) (hk : k ≠ 0) (husable : usable32 odd k = some k) :
    u.Succeeds odd (bytes ++ u.unpack k) := by
  obtain ⟨hv, hobuf, hcnt, hpad, -, hfail⟩ := h
  have hpad0 : u.padcnt = 0 := BitVec.eq_of_toNat_eq hpad
  have hcnt0 : u.cnt ≠ 0#3 := by
    rintro h0
    simp [h0] at hcnt
    omega
  simp [B32D.Succeeds, B32D.finish, hfail, hpad0, hcnt0, hcnt, husable, hobuf]

/-- A short last group `xs`, `x` after complete groups: its bytes, padded and with whitespace after it, or unpadded
(42_base32.md R184). -/
theorem B32D.InGroup.short_group (h : u.InGroup v bytes 0 0) {xs : List Byte} (hlen : xs.length ∈ [1, 3, 4, 6])
    (hxs : dataRun32 v xs = true) (hx : d32 v x ≠ sentinel) :
    (∀ w, wsRun w = true →
      (B32D.symbols odd (xs ++ [x] ++ List.replicate (7 - xs.length) padChar ++ w) u).Succeeds odd
        (bytes ++ lastBytes32 (B32D.symbols odd xs u).c xs.length (d32 v x)))
    ∧ (B32D.symbols odd (xs ++ [x]) u).Succeeds odd
        (bytes ++ lastBytes32 (B32D.symbols odd xs u).c xs.length (d32 v x)) := by
  have husable := usable32_of_whole (odd := odd) hlen
  simp only [List.mem_cons, List.not_mem_nil, or_false] at hlen
  have hrun : (B32D.symbols odd xs u).InGroup v bytes xs.length 0 := by
    simpa using h.data_run (by omega) hxs
  have hgroup := hrun.count.data (odd := odd) (by omega) hx
  have hcells := hrun.count.symbol_data (odd := odd) (x := x) (by omega) hx
  have hpads : 7 - xs.length = 6 - xs.length + 1 := by omega
  constructor
  · intro w hw
    have hbetween := (hgroup.padding (n := 6 - xs.length) (by omega) husable (by omega)).whitespace (odd := odd) hw
    have hpadded := hbetween.succeeds (odd := odd)
    rw [hpads, B32D.symbols_append, B32D.symbols_append, B32D.symbols_append, B32D.symbols_cons, B32D.symbols_nil]
    rw [hcells] at hpadded ⊢
    exact hpadded
  · have hunpadded := hgroup.succeeds (by omega) husable
    rw [B32D.symbols_append, B32D.symbols_cons, B32D.symbols_nil]
    rw [hcells] at hunpadded ⊢
    exact hunpadded

/-- What a transaction does to the registers of B32D. -/
theorem afterTransaction_b32d (cfg : Cfg) (text : List Byte) (s : State) :
    (afterTransaction .b32d cfg text s).b32d =
      (B32D.symbols s.params.b32OddCount text (s.applyStart .b32d cfg).b32d).finish s.params.b32OddCount := by
  have hregs := applySymbols_b32d text (s.applyStart .b32d cfg)
  rw [applyStart_params] at hregs
  simp only [afterTransaction, State.applyFinish, applySymbols_params, applyStart_params, hregs, B32D.symbols]

/-- Two texts of a decode operation that go on from the same state, and end with the same bytes, are decoded alike
(42_base32.md R185, R186). -/
theorem exec_b32d_alike {op : List Byte → Instr} (hop : OperationOf op .b32d v) {s : State} {a r r' : List Byte} {n : Nat}
    (hstart : s.canStart .b32d) (hfits : s.params.admits (a.length + n) = true) (hr : r.length ≤ n) (hr' : r'.length ≤ n)
    (h : (B32D.symbols s.params.b32OddCount r ((s.applyStart .b32d (op []).cfg).applySymbols .b32d a).b32d).Succeeds
      s.params.b32OddCount bytes)
    (h' : (B32D.symbols s.params.b32OddCount r' ((s.applyStart .b32d (op []).cfg).applySymbols .b32d a).b32d).Succeeds
      s.params.b32OddCount bytes) :
    ∃ t t', exec (op (a ++ r)) s = .next t ∧ exec (op (a ++ r')) s = .next t'
      ∧ t.b32d.port.ok = true ∧ t'.b32d.port.ok = true
      ∧ t'.b32d.port.out = t.b32d.port.out ∧ t.b32d.port.outLen = bytes.length := by
  have hexec (r : List Byte) (hr : r.length ≤ n) :
      exec (op (a ++ r)) s = .next (afterTransaction .b32d (op []).cfg (a ++ r) s) := by
    rw [exec_of_unit (hop.unit _) hstart, hop.cfg, hop.message]
    rw [hop.message, List.length_append]
    exact admits_mono (by omega) hfits
  have hreg (r : List Byte) : (afterTransaction .b32d (op []).cfg (a ++ r) s).b32d =
      (B32D.symbols s.params.b32OddCount r ((s.applyStart .b32d (op []).cfg).applySymbols .b32d a).b32d).finish
        s.params.b32OddCount := by
    rw [afterTransaction_b32d, B32D.symbols_append, State.applySymbols, applySymbols_b32d, applyStart_params]
    rfl
  obtain ⟨hok, hout⟩ := h
  obtain ⟨hok', hout'⟩ := h'
  rw [← hreg] at hok hout hok' hout'
  exact ⟨_, _, hexec r hr, hexec r' hr', hok, hok', hout'.trans hout.symm, congrArg List.length hout⟩

end B32D

/-- Settles O37: as O36, and `usable32` takes the short groups of 2, 4, 5 and 7 data characters whole. -/
theorem base32FillBitsAreIgnored : Obligations.Base32FillBitsAreIgnored := by
  intro op v hop a xs w x x' fill s hstart hfits hw hfill hdata hor m hcnt hpad hclosed hfail
  have hop := b32d_operationOf hop
  have hlen : xs.length ∈ [1, 3, 4, 6] := List.mem_map_of_mem (f := Prod.fst) hfill
  simp only [dataRun32, List.all_append, List.all_cons, Bool.and_eq_true, bne_iff_ne] at hdata
  obtain ⟨hxs, hx, hx', -⟩ := hdata
  have hvariant : variantOf m.port.cfg = v :=
    (congrArg variantOf (applySymbols_applyStart_cfg .b32d (op []).cfg a s)).trans hop.variant
  have hm : m.InGroup v m.port.obuf 0 0 :=
    ⟨hvariant, rfl, congrArg BitVec.toNat hcnt, congrArg BitVec.toNat hpad, hclosed, hfail⟩
  obtain ⟨hpadded, hunpadded⟩ := hm.short_group (odd := s.params.b32OddCount) hlen hxs hx
  obtain ⟨hpadded', hunpadded'⟩ := hm.short_group (odd := s.params.b32OddCount) hlen hxs hx'
  rw [← lastBytes32_fill _ hfill hor] at hpadded' hunpadded'
  have hbytes :
      (m.port.obuf ++ lastBytes32 (B32D.symbols s.params.b32OddCount xs m).c xs.length (d32 v x)).length =
        m.port.obuf.length + 5 * (xs.length + 1) / 8 := by rw [List.length_append, lastBytes32_length hlen]
  have hle : xs.length ≤ 6 := by simp at hlen; omega
  rw [← hbytes]
  rw [Nat.add_assoc] at hfits
  simp only [List.append_assoc] at hpadded hunpadded hpadded' hunpadded' ⊢
  constructor
  · refine exec_b32d_alike hop hstart hfits ?_ ?_ (hpadded w hw) (hpadded' w hw)
    all_goals
      simp
      omega
  · refine exec_b32d_alike hop hstart hfits ?_ ?_ hunpadded hunpadded'
    all_goals
      simp
      omega

end Sys2Proof.Machine
end

section
/-! SUPPORT. The event rules of B64E and B64D, register by register (41_base64.md R141, R142, R151, R153). -/

namespace Sys2Proof.Machine

open Sys2Proof

section Present

variable {u : UnitId} {s : State}

/-- A `SYMBOL` to a running unit is taken while the message fits `MAX_LEN` (10_state.md R23). -/
theorem present_symbol (x : Byte) (hrun : s.running u) (hfits : s.params.admits ((s.port u).sent + 1) = true) :
    present u (.symbol x) s = .next (s.applySymbol u x) :=
  present_eq_next.2 ⟨refusalOf_symbol.2 ⟨hrun.1, hrun.2, hfits⟩, rfl⟩

theorem present_finish (hrun : s.running u) : present u .finish s = .next (s.applyFinish u) :=
  present_eq_next.2 ⟨refusalOf_finish.2 hrun, rfl⟩

end Present

section B64E

variable (x : Byte) {u : B64E}

/-- A byte that does not complete the group is stored (41_base64.md R141). -/
theorem B64E.symbol_stored (h : u.cnt.toNat < 2) :
    B64E.symbol x u = { u with b := u.b.setIfInBounds u.cnt.toNat x, cnt := u.cnt + 1 } := if_pos h

/-- The third byte completes the group (41_base64.md R141). -/
theorem B64E.symbol_complete (h : u.cnt.toNat = 2) :
    B64E.symbol x u =
      { u with port := u.port.append ((pack64 u.b[0] u.b[1] x).map (e64 (variantOf u.port.cfg))), cnt := 0 } :=
  if_neg (by omega)

theorem B64E.tail_zero (h : u.cnt.toNat = 0) : u.tail = [] := by
  have hcnt : u.cnt = 0 := BitVec.eq_of_toNat_eq h
  simp [B64E.tail, hcnt]

theorem B64E.tail_one (h : u.cnt.toNat = 1) : u.tail =
    ((pack64 u.b[0] 0 0).take 2).map (e64 (variantOf u.port.cfg))
      ++ (if flagOf u.port.cfg = 1 then [padChar, padChar] else []) :=
  if_pos (BitVec.eq_of_toNat_eq h)

theorem B64E.tail_two (h : u.cnt.toNat = 2) : u.tail =
    ((pack64 u.b[0] u.b[1] 0).take 3).map (e64 (variantOf u.port.cfg))
      ++ (if flagOf u.port.cfg = 1 then [padChar] else []) := by
  have hcnt : u.cnt = 2 := BitVec.eq_of_toNat_eq h
  simp [B64E.tail, hcnt]

/-- A Base64 encode operation ends in DONE with `OK` and `enc64` of its message (41_base64.md R143 to R146). -/
theorem exec_b64e_done {i : Instr} {s : State} (hu : i.unit = .b64e) (hstart : s.canStart .b64e)
    (hfits : s.params.admits i.message.length = true) {variant pad : BitVec 1}
    (hcfg : variantOf i.cfg = variant ∧ flagOf i.cfg = pad) :
    ∃ t, exec i s = .next t ∧ t.b64e.port.ok = true ∧ t.b64e.port.st = .done
      ∧ t.b64e.port.out = enc64 variant pad i.message := by
  obtain ⟨t, ht, hout⟩ := exec_b64e_out hu hstart hfits hcfg.1 hcfg.2
  obtain ⟨-, -, -, rfl⟩ := exec_inv ht
  rw [hu] at ht hout
  exact ⟨_, ht, rfl, rfl, hout⟩

end B64E

/-- Settles O11: the two event rules are the equations of `symbol` and `tail`, an operation is `exec_b64e_done`. -/
theorem b64EncoderEventsAndOperations : Obligations.B64EncoderEventsAndOperations := by
  refine ⟨fun s x hrun hfits => ?_, fun s hrun => ?_, fun bytes s hstart hfits => ⟨?_, ?_, ?_, ?_⟩⟩
  · refine ⟨_, present_symbol x hrun hfits, applySymbol_cfg .b64e x s, fun h => ?_, fun h => ?_⟩
    · have hreg : (s.applySymbol .b64e x).b64e = _ :=
        B64E.symbol_stored (u := { s.b64e with port := s.b64e.port.count }) x h
      rw [hreg]
      exact ⟨Vector.toList_setIfInBounds, by simp only; bv_omega, rfl⟩
    · have hreg : (s.applySymbol .b64e x).b64e = _ :=
        B64E.symbol_complete (u := { s.b64e with port := s.b64e.port.count }) x h
      rw [hreg]
      exact ⟨rfl, rfl, rfl⟩
  · exact ⟨_, s.b64e.tail, present_finish hrun, rfl, rfl, rfl, rfl, rfl, B64E.tail_zero, B64E.tail_one, B64E.tail_two⟩
  · exact exec_b64e_done (i := .b64encStdNopad bytes) rfl hstart hfits (by decide : variantOf 0b00 = 0 ∧ flagOf 0b00 = 0)
  · exact exec_b64e_done (i := .b64encStdPad bytes) rfl hstart hfits (by decide : variantOf 0b10 = 0 ∧ flagOf 0b10 = 1)
  · exact exec_b64e_done (i := .b64encUrlNopad bytes) rfl hstart hfits (by decide : variantOf 0b01 = 1 ∧ flagOf 0b01 = 0)
  · exact exec_b64e_done (i := .b64encUrlPad bytes) rfl hstart hfits (by decide : variantOf 0b11 = 1 ∧ flagOf 0b11 = 1)

section B64D

/-! One equation per arm of 41_base64.md R151 and R153. -/

variable {u : B64D} {x : Byte}

theorem B64D.symbol_of_failed (h : u.fail = true) : B64D.symbol x u = u := if_pos h

/-- `END` commits from `OBUF` and leaves it as it was (log entry 11). -/
theorem B64D.finish_obuf (u : B64D) : u.finish.port.obuf = u.port.obuf := by
  unfold B64D.finish
  split_ifs <;> rfl

theorem B64D.finish_of_failed (h : u.fail = true) : u.finish = { u with port := u.port.failAtEnd } := if_pos h

section Symbol

variable (hfail : u.fail = false)
include hfail

theorem B64D.symbol_whitespace_between (hws : isWs x = true) (h : u.cnt.toNat = 0 ∧ u.padcnt.toNat = 0) :
    B64D.symbol x u = u := by
  simp [B64D.symbol, hfail, hws, ← BitVec.toNat_inj, h]

theorem B64D.symbol_whitespace_within (hws : isWs x = true) (h : ¬(u.cnt.toNat = 0 ∧ u.padcnt.toNat = 0)) :
    B64D.symbol x u = u.raise .structural := by
  simpa [B64D.symbol, hfail, hws, ← BitVec.toNat_inj] using fun h0 h1 => absurd ⟨h0, h1⟩ h

theorem B64D.symbol_closed (hws : isWs x = false) (hclosed : u.closed = true) :
    B64D.symbol x u = u.raise .structural := by
  simp [B64D.symbol, hfail, hws, hclosed]

section Pad

variable (hclosed : u.closed = false)
include hclosed

theorem B64D.symbol_earlyPad (hcnt : u.cnt.toNat < 2) : B64D.symbol padChar u = u.raise .padding := by
  simp [B64D.symbol, hfail, hclosed, hcnt]

theorem B64D.symbol_lastPad (hcnt : 2 ≤ u.cnt.toNat) (hfull : u.cnt.toNat + u.padcnt.toNat + 1 = 4) :
    B64D.symbol padChar u =
      { u with
        port := u.port.append (unpack64 u.v[0] u.v[1] u.v[2] u.v[3] u.cnt.toNat)
        cnt := 0
        padcnt := 0
        closed := true } := by
  simp [B64D.symbol, hfail, hclosed, hfull, Nat.not_lt.2 hcnt]

theorem B64D.symbol_firstPad (hcnt : 2 ≤ u.cnt.toNat) (hmore : u.cnt.toNat + u.padcnt.toNat + 1 ≠ 4) :
    B64D.symbol padChar u = { u with padcnt := 1 } := by
  simp [B64D.symbol, hfail, hclosed, hmore, Nat.not_lt.2 hcnt]

end Pad

section Data

variable (hclosed : u.closed = false)
include hclosed

theorem B64D.symbol_foreign (hws : isWs x = false) (hpad : x ≠ padChar)
    (hx : d64 (variantOf u.port.cfg) x = sentinel) : B64D.symbol x u = u.raise .symbol := by
  have hispad : isPad x = false := beq_false_of_ne hpad
  simp [B64D.symbol, hfail, hclosed, hws, hispad, hx]

variable (hx : d64 (variantOf u.port.cfg) x ≠ sentinel)
include hx

theorem B64D.symbol_data_after_pad (hpadcnt : 0 < u.padcnt.toNat) : B64D.symbol x u = u.raise .structural := by
  obtain ⟨hws, hispad⟩ := not_ws_and_not_pad_of_d64_ne hx
  simp [B64D.symbol, hfail, hclosed, hws, hispad, hx, ← BitVec.toNat_inj, hpadcnt.ne']

theorem B64D.symbol_lastData (hpadcnt : u.padcnt.toNat = 0) (hcnt : u.cnt.toNat = 3) :
    B64D.symbol x u =
      { u with
        port := u.port.append (unpack64 u.v[0] u.v[1] u.v[2] ((d64 (variantOf u.port.cfg) x).setWidth 6) 4)
        cnt := 0 } := by
  obtain ⟨hws, hispad⟩ := not_ws_and_not_pad_of_d64_ne hx
  simp [B64D.symbol, hfail, hclosed, hws, hispad, hx, ← BitVec.toNat_inj, hpadcnt, hcnt]

theorem B64D.symbol_data (hpadcnt : u.padcnt.toNat = 0) (hcnt : u.cnt.toNat < 3) :
    B64D.symbol x u =
      { u with
        v := u.v.setIfInBounds u.cnt.toNat ((d64 (variantOf u.port.cfg) x).setWidth 6)
        cnt := u.cnt + 1 } := by
  obtain ⟨hws, hispad⟩ := not_ws_and_not_pad_of_d64_ne hx
  simp [B64D.symbol, hfail, hclosed, hws, hispad, hx, ← BitVec.toNat_inj, hpadcnt, hcnt.ne]

end Data

end Symbol

section Finish

variable (hfail : u.fail = false)
include hfail

theorem B64D.finish_within_padding (hpadcnt : 0 < u.padcnt.toNat) : u.finish = { u with port := u.port.failAtEnd } := by
  simp [B64D.finish, hfail, ← BitVec.toNat_inj, hpadcnt.ne']

variable (hpadcnt : u.padcnt.toNat = 0)
include hpadcnt

theorem B64D.finish_between (hcnt : u.cnt.toNat = 0) : u.finish = { u with port := u.port.succeed u.port.obuf } := by
  simp [B64D.finish, hfail, ← BitVec.toNat_inj, hpadcnt, hcnt]

theorem B64D.finish_one (hcnt : u.cnt.toNat = 1) : u.finish = { u with port := u.port.failAtEnd } := by
  simp [B64D.finish, hfail, ← BitVec.toNat_inj, hpadcnt, hcnt]

theorem B64D.finish_short_std (hcnt : u.cnt.toNat = 2 ∨ u.cnt.toNat = 3) (hv : variantOf u.port.cfg = 0) :
    u.finish = { u with port := u.port.failAtEnd } := by
  rcases hcnt with hcnt | hcnt <;> simp [B64D.finish, hfail, ← BitVec.toNat_inj, hpadcnt, hcnt, hv]

theorem B64D.finish_short_url (hcnt : u.cnt.toNat = 2 ∨ u.cnt.toNat = 3) (hv : variantOf u.port.cfg = 1) :
    u.finish = { u with
      port := u.port.succeed (u.port.obuf ++ unpack64 u.v[0] u.v[1] u.v[2] u.v[3] u.cnt.toNat) } := by
  rcases hcnt with hcnt | hcnt <;> simp [B64D.finish, hfail, ← BitVec.toNat_inj, hpadcnt, hcnt, hv]

end Finish

end B64D

/-- Settles O14: the arms one by one, in the rule's order. -/
theorem b64DecoderEvents : Obligations.B64DecoderEvents := by
  refine ⟨fun s x hrun hfits => ⟨s.applySymbol .b64d x, ?_⟩, fun s hrun => ⟨s.applyFinish .b64d, ?_⟩⟩
  · have hsent : (s.applySymbol .b64d x).b64d.port.sent = s.b64d.port.sent + 1 := applySymbol_sent .b64d x s
    intro u d
    have hu : u = { s.b64d with port := s.b64d.port.count } := by simp only [u, hsent]; rfl
    have ht : (s.applySymbol .b64d x).b64d = B64D.symbol x u := by rw [hu]; rfl
    rw [ht]
    clear_value u
    refine ⟨present_symbol x hrun hfits, B64D.symbol_of_failed,
      fun hfail hws => ⟨B64D.symbol_whitespace_between hfail hws, B64D.symbol_whitespace_within hfail hws⟩,
      B64D.symbol_closed, fun hfail hclosed hx => ?_, fun hfail hclosed hws hx => ?_⟩
    · subst hx
      exact ⟨B64D.symbol_earlyPad hfail hclosed, B64D.symbol_lastPad hfail hclosed, B64D.symbol_firstPad hfail hclosed⟩
    · refine ⟨B64D.symbol_foreign hfail hclosed hws hx, B64D.symbol_data_after_pad hfail hclosed,
        B64D.symbol_lastData hfail hclosed, fun hd hpadcnt hcnt => ?_⟩
      rw [B64D.symbol_data hfail hclosed hd hpadcnt hcnt]
      exact ⟨rfl, Vector.toList_setIfInBounds, by simp only; bv_omega⟩
  · intro ends
    have hobuf : (s.applyFinish .b64d).b64d.port.obuf = s.b64d.port.obuf := s.b64d.finish_obuf
    simp only [ends, hobuf]
    exact ⟨present_finish hrun, rfl, B64D.finish_of_failed, B64D.finish_within_padding, B64D.finish_between,
      B64D.finish_one, fun hfail hpadcnt hcnt =>
        ⟨B64D.finish_short_std hfail hpadcnt hcnt, B64D.finish_short_url hfail hpadcnt hcnt⟩⟩

end Sys2Proof.Machine
end

section
/-! SUPPORT. B64D against `dec64` (41_base64.md R154): the texts the rule decodes, read from the left, and the registers in the middle
of such a text. -/

namespace Sys2Proof.Machine

open Sys2Proof

section Texts

variable {v : BitVec 1} {g w text bytes : List Byte}

/-- The texts `dec64` succeeds on and their bytes, read from the left: whitespace and full groups, and at most one short group,
padded or in the URL variant unpadded, at the end (41_base64.md R154). -/
inductive Decoding64 (v : BitVec 1) : List Byte → List Byte → Prop where
  | nil : Decoding64 v [] []
  | whitespace {x : Byte} {text bytes : List Byte} (hx : isWs x = true) (h : Decoding64 v text bytes) :
    Decoding64 v (x :: text) bytes
  | group {g text bytes : List Byte} (hlen : g.length = 4) (hg : dataRun64 v g = true) (h : Decoding64 v text bytes) :
    Decoding64 v (g ++ text) (groupBytes64 v g ++ bytes)
  | padded {g w : List Byte} (hlen : g.length = 2 ∨ g.length = 3) (hg : dataRun64 v g = true) (hw : wsRun w = true) :
    Decoding64 v (g ++ (List.replicate (4 - g.length) padChar ++ w)) (groupBytes64 v g)
  | unpadded {g : List Byte} (hv : v = 1) (hlen : g.length = 2 ∨ g.length = 3) (hg : dataRun64 v g = true) :
    Decoding64 v g (groupBytes64 v g)

theorem Decoding64.whitespaceRun (hw : wsRun w = true) (h : Decoding64 v text bytes) : Decoding64 v (w ++ text) bytes := by
  induction w with
  | nil => exact h
  | cons x rest ih =>
    simp only [wsRun, List.all_cons, Bool.and_eq_true] at hw
    exact .whitespace hw.1 (ih hw.2)

/-- The cells `V[0]` to `V[3]` with the digit values of the data characters `g`, and 0 in the others. -/
def cells64 (v : BitVec 1) (g : List Byte) : Vector Digit64 4 :=
  let ds := g.map fun c => (d64 v c).setWidth 6
  #v[ds.getD 0 0, ds.getD 1 0, ds.getD 2 0, ds.getD 3 0]

theorem cells64_write (v : BitVec 1) {g : List Byte} (h : g.length < 4) (x : Byte) :
    (cells64 v g).setIfInBounds g.length ((d64 v x).setWidth 6) = cells64 v (g ++ [x]) := by
  match g, h with
  | [], _ => rfl
  | [_], _ => rfl
  | [_, _], _ => rfl
  | [_, _, _], _ => rfl

/-- The bytes of a group come from its data characters alone. -/
theorem groupBytes64_padded (v : BitVec 1) (g : List Byte) (n : Nat) :
    groupBytes64 v (g ++ List.replicate n padChar) = groupBytes64 v g := by
  simp [groupBytes64, List.filter_append]

theorem groupBytes64_data (hg : dataRun64 v g = true) :
    groupBytes64 v g =
      unpack64 (cells64 v g)[0] (cells64 v g)[1] (cells64 v g)[2] (cells64 v g)[3] g.length := by
  have hdata : g.filter (fun c => !isPad c) = g := by
    refine List.filter_eq_self.2 fun c hc => ?_
    have hne : d64 v c ≠ sentinel := by simpa using List.all_eq_true.1 hg c hc
    simp [(not_ws_and_not_pad_of_d64_ne hne).2]
  simp [groupBytes64, hdata, cells64]

end Texts

section Rule

variable {v : BitVec 1} {g w text bytes : List Byte}

/-- A final group of the rule, with the whitespace after it (41_base64.md R154 (b)). -/
theorem Decoding64.of_lastGroup64 (h : lastGroup64 v g w = true) (hw : wsRun w = true) :
    Decoding64 v (g ++ w) (groupBytes64 v g) := by
  have padded {k : Nat} (hk : k = 2 ∨ k = 3) (hlen : g.length = 4) (hg : dataRun64 v (g.take k) = true)
      (hpad : g.drop k = List.replicate (4 - k) padChar) : Decoding64 v (g ++ w) (groupBytes64 v g) := by
    have htake : (g.take k).length = k := by
      rw [List.length_take]
      omega
    have h := Decoding64.padded (by rwa [htake]) hg hw
    rwa [htake, ← hpad, ← List.append_assoc, List.take_append_drop, ← groupBytes64_padded v _ (4 - k), ← hpad,
      List.take_append_drop] at h
  simp only [lastGroup64, Bool.or_eq_true, Bool.and_eq_true, beq_iff_eq] at h
  rcases h with ((⟨hlen, hg⟩ | ⟨⟨hlen, hg⟩, hpad⟩) | ⟨⟨hlen, hg⟩, hpad⟩) | ⟨⟨⟨hv, hlen⟩, hg⟩, rfl⟩
  · simpa using Decoding64.group hlen hg (.whitespaceRun hw .nil)
  · exact padded (.inr rfl) hlen hg hpad
  · exact padded (.inl rfl) hlen hg hpad
  · simpa using Decoding64.unpadded hv hlen.symm hg

theorem lastGroup64_padded (hlen : g.length = 2 ∨ g.length = 3) (hg : dataRun64 v g = true) (w : List Byte) :
    lastGroup64 v (g ++ List.replicate (4 - g.length) padChar) w = true := by
  rcases hlen with hlen | hlen <;> simp [lastGroup64, hlen, hg, List.take_append, List.drop_append]

theorem Decoding64.of_groups64 {gs : List (List Byte × List Byte)} (h : groups64 v gs = true) :
    Decoding64 v (gs.flatMap fun p => p.1 ++ p.2) (gs.flatMap fun p => groupBytes64 v p.1) := by
  induction gs with
  | nil => exact .nil
  | cons p rest ih =>
    cases rest with
    | nil =>
      simp only [groups64, Bool.and_eq_true] at h
      simpa using Decoding64.of_lastGroup64 h.1 h.2
    | cons q rest =>
      simp only [groups64, Bool.and_eq_true, beq_iff_eq] at h
      obtain ⟨⟨⟨hlen, hg⟩, hw⟩, hrest⟩ := h
      rw [List.flatMap_cons, List.append_assoc]
      exact .group hlen hg (.whitespaceRun hw (ih hrest))

/-- Reading from the left finds the decompositions of R154. -/
theorem decodesTo64_iff : DecodesTo64 v text bytes ↔ Decoding64 v text bytes := by
  constructor
  · rintro ⟨w0, gs, hw0, hgs, rfl, rfl⟩
    exact .whitespaceRun hw0 (.of_groups64 hgs)
  · intro h
    induction h with
    | nil => exact ⟨[], [], rfl, rfl, rfl, rfl⟩
    | whitespace hx h ih =>
      obtain ⟨w0, gs, hw0, hgs, rfl, rfl⟩ := ih
      exact ⟨_ :: w0, gs, by simpa [wsRun, hx] using hw0, hgs, rfl, rfl⟩
    | @group g text bytes hlen hg h ih =>
      obtain ⟨w0, gs, hw0, hgs, rfl, rfl⟩ := ih
      refine ⟨[], (g, w0) :: gs, rfl, ?_, by simp, by simp⟩
      cases gs with
      | nil => simp [groups64, lastGroup64, hlen, hg, hw0]
      | cons p rest => simp [groups64, hlen, hg, hw0, hgs]
    | @padded g w hlen hg hw =>
      refine ⟨[], [(g ++ List.replicate (4 - g.length) padChar, w)], rfl, ?_, by simp, by simp [groupBytes64_padded]⟩
      simp [groups64, lastGroup64_padded hlen hg, hw]
    | @unpadded g hv hlen hg =>
      refine ⟨[], [(g, [])], rfl, ?_, by simp, by simp⟩
      simp [groups64, lastGroup64, hlen.symm, hg, ← hv, wsRun]

end Rule

section Registers

variable {v : BitVec 1} {g w text bytes out tail : List Byte} {u : B64D} {x : Byte}

/-- When a `SYMBOL` does not fail: the arms of 41_base64.md R151 that raise nothing. -/
inductive B64D.Accepts (x : Byte) (u : B64D) : Prop where
  | whitespace (hws : isWs x = true) (h : u.cnt.toNat = 0 ∧ u.padcnt.toNat = 0)
  | lastPad (hx : x = padChar) (hclosed : u.closed = false) (hcnt : 2 ≤ u.cnt.toNat)
    (hfull : u.cnt.toNat + u.padcnt.toNat + 1 = 4)
  | firstPad (hx : x = padChar) (hclosed : u.closed = false) (hcnt : 2 ≤ u.cnt.toNat)
    (hmore : u.cnt.toNat + u.padcnt.toNat + 1 ≠ 4)
  | lastData (hx : d64 (variantOf u.port.cfg) x ≠ sentinel) (hclosed : u.closed = false) (hpadcnt : u.padcnt.toNat = 0)
    (hcnt : u.cnt.toNat = 3)
  | data (hx : d64 (variantOf u.port.cfg) x ≠ sentinel) (hclosed : u.closed = false) (hpadcnt : u.padcnt.toNat = 0)
    (hcnt : u.cnt.toNat < 3)

theorem B64D.accepts_of_not_failed (h : (B64D.symbol x u).fail = false) : u.Accepts x := by
  unfold B64D.symbol at h
  split_ifs at h with hfail hws hbetween hclosed hpad hcnt hfull hdata hpadcnt hlast
  · simp [hfail] at h
  · exact .whitespace hws (by simp [hbetween])
  · nomatch h
  · nomatch h
  · nomatch h
  · exact .lastPad (beq_iff_eq.1 hpad) (by simpa using hclosed) (by omega) hfull
  · exact .firstPad (beq_iff_eq.1 hpad) (by simpa using hclosed) (by omega) hfull
  · nomatch h
  · nomatch h
  · exact .lastData hdata (by simpa using hclosed) (by bv_omega) (by simp [hlast])
  · exact .data hdata (by simpa using hclosed) (by bv_omega) (by bv_omega)

/-- A failure stays until `END`, which then gives nothing (60_exceptions.md R255). -/
theorem B64D.Succeeds.not_failed (h : (B64D.symbols text u).Succeeds out) : u.fail = false := by
  by_contra hfail
  rw [Bool.not_eq_false] at hfail
  induction text generalizing u with
  | nil => simp [B64D.Succeeds, B64D.finish_of_failed hfail] at h
  | cons x rest ih =>
    rw [B64D.symbols_cons, B64D.symbol_of_failed (u := { u with port := u.port.count }) hfail] at h
    exact ih h hfail

/-- The first symbol of a text that ends well is accepted. -/
theorem B64D.Succeeds.accepts (h : (B64D.symbols (x :: text) u).Succeeds out) :
    { u with port := u.port.count }.Accepts x :=
  B64D.accepts_of_not_failed (B64D.Succeeds.not_failed h)

/-- B64D between or within groups, with the data characters `g` of the open group taken and their values in the cells. -/
structure B64D.Open (v : BitVec 1) (bytes g : List Byte) (u : B64D) : Prop extends u.InGroup v bytes g.length 0 where
  run : dataRun64 v g = true
  cells : SameBelow g.length (cells64 v g) u.v

theorem B64D.Open.count (h : u.Open v bytes g) : { u with port := u.port.count }.Open v bytes g :=
  ⟨h.toInGroup.count, h.run, h.cells⟩

/-- The bytes of the open group. -/
theorem B64D.Open.unpack (h : u.Open v bytes g) (hlen : 2 ≤ g.length) :
    unpack64 u.v[0] u.v[1] u.v[2] u.v[3] g.length = groupBytes64 v g := by
  rw [groupBytes64_data h.run, unpack64_agree h.cells hlen]

theorem dataRun64_concat (hg : dataRun64 v g = true) (hx : d64 v x ≠ sentinel) : dataRun64 v (g ++ [x]) = true := by
  simp_all [dataRun64]

theorem B64D.Open.data (h : u.Open v bytes g) (hlen : g.length < 3) (hx : d64 v x ≠ sentinel) :
    (B64D.symbol x u).Open v bytes (g ++ [x]) := by
  refine ⟨?_, dataRun64_concat h.run hx, ?_⟩
  · simpa using h.toInGroup.data hlen hx
  · rw [h.symbol_data hlen hx, ← cells64_write v (by omega), List.length_append]
    exact h.cells.write _

/-- The fourth data character completes the group: its bytes are appended (41_base64.md R151). -/
theorem B64D.Open.lastData (h : u.Open v bytes g) (hlen : g.length = 3) (hx : d64 v x ≠ sentinel) :
    (B64D.symbol x u).Open v (bytes ++ groupBytes64 v (g ++ [x])) [] := by
  have hgroup : unpack64 u.v[0] u.v[1] u.v[2] ((d64 v x).setWidth 6) 4 = groupBytes64 v (g ++ [x]) := by
    have hcells := h.cells.write ((d64 v x).setWidth 6)
    rw [cells64_write v (by omega), hlen] at hcells
    rw [groupBytes64_data (dataRun64_concat h.run hx), List.length_append, hlen, List.length_singleton,
      ← unpack64_agree hcells (by omega)]
    simp
  obtain ⟨⟨hv, hobuf, hcnt, hpadcnt, hclosed, hfail⟩, -, -⟩ := h
  subst hv
  rw [B64D.symbol_lastData hfail hclosed hx hpadcnt (hcnt.trans hlen), hgroup]
  exact ⟨⟨rfl, congrArg (· ++ _) hobuf, rfl, hpadcnt, hclosed, hfail⟩, rfl, .zero⟩

theorem B64D.Open.between (h : u.Open v bytes []) : u.Between bytes :=
  ⟨h.obuf, BitVec.eq_of_toNat_eq h.cnt, BitVec.eq_of_toNat_eq h.padcnt, h.fail⟩

theorem B64D.Open.group (h : u.Open v bytes []) (hlen : g.length = 4) (hg : dataRun64 v g = true) :
    (B64D.symbols g u).Open v (bytes ++ groupBytes64 v g) [] := by
  match g, hlen with
  | [a, b, c, d], _ =>
    simp only [dataRun64, List.all_cons, List.all_nil, Bool.and_eq_true, bne_iff_ne] at hg
    obtain ⟨ha, hb, hc, hd, -⟩ := hg
    exact ((((h.count.data (by simp) ha).count.data (by simp) hb).count.data (by simp) hc).count.lastData (by simp) hd)

theorem B64D.Open.data_run {g' : List Byte} (h : u.Open v bytes g) (hlen : g.length + g'.length ≤ 3)
    (hg : dataRun64 v g' = true) : (B64D.symbols g' u).Open v bytes (g ++ g') := by
  induction g' generalizing u g with
  | nil => simpa using h
  | cons x rest ih =>
    simp only [dataRun64, List.all_cons, Bool.and_eq_true, bne_iff_ne] at hg
    rw [List.length_cons] at hlen
    rw [List.append_cons]
    exact ih (h.count.data (by omega) hg.1) (by simp; omega) hg.2

/-- Every text the rule decodes ends well, with the rule's bytes. -/
theorem Decoding64.succeeds (hd : Decoding64 v text tail) (h : u.Open v bytes []) :
    (B64D.symbols text u).Succeeds (bytes ++ tail) := by
  induction hd generalizing u bytes with
  | nil => simpa using h.between.succeeds
  | whitespace hx _ ih =>
    rw [B64D.symbols_cons, B64D.symbol_whitespace_between h.count.fail hx ⟨h.count.cnt, h.count.padcnt⟩]
    exact ih h.count
  | group hlen hg _ ih =>
    rw [B64D.symbols_append, ← List.append_assoc]
    exact ih (h.group hlen hg)
  | @padded g w hlen hg hw =>
    have hopen := h.data_run (by simp; omega) hg
    obtain ⟨n, hn⟩ : ∃ n, 4 - g.length = n + 1 := ⟨3 - g.length, by omega⟩
    have hclosed := hopen.toInGroup.padding (n := n) (by simp; omega) (by simp; omega)
    rw [hopen.unpack (by simp; omega)] at hclosed
    rw [B64D.symbols_append, B64D.symbols_append, hn]
    exact (hclosed.whitespace hw).succeeds
  | unpadded hv hlen hg =>
    subst hv
    have hopen := h.data_run (by simp; omega) hg
    have hends := hopen.toInGroup.succeeds hlen
    rwa [hopen.unpack (by simp; omega)] at hends

theorem B64D.Between.count (h : u.Between bytes) : { u with port := u.port.count }.Between bytes :=
  ⟨h.obuf, h.cnt, h.padcnt, h.fail⟩

/-- After the padding only whitespace ends well. -/
theorem B64D.Succeeds.of_closed (hs : (B64D.symbols text u).Succeeds out) (h : u.Between bytes)
    (hclosed : u.closed = true) : wsRun text = true ∧ out = bytes := by
  induction text generalizing u with
  | nil => exact ⟨rfl, hs.2.symm.trans h.succeeds.2⟩
  | cons x rest ih =>
    rcases hs.accepts with ⟨hws, hbetween⟩ | ⟨-, hopen⟩ | ⟨-, hopen⟩ | ⟨-, hopen⟩ | ⟨-, hopen⟩
    · rw [B64D.symbols_cons, B64D.symbol_whitespace_between h.count.fail hws hbetween] at hs
      obtain ⟨hrest, hout⟩ := ih hs h.count hclosed
      exact ⟨by simpa [wsRun, hws] using hrest, hout⟩
    all_goals exact absurd (hclosed.symm.trans hopen) (by decide)

/-- What `END` succeeds on (41_base64.md R153). -/
theorem B64D.Succeeds.at_end (hs : u.Succeeds out) : u.padcnt.toNat = 0 ∧
    (u.cnt.toNat = 0 ∧ out = u.port.obuf
    ∨ variantOf u.port.cfg = 1 ∧ (u.cnt.toNat = 2 ∨ u.cnt.toNat = 3)
      ∧ out = u.port.obuf ++ unpack64 u.v[0] u.v[1] u.v[2] u.v[3] u.cnt.toNat) := by
  obtain ⟨hok, hout⟩ := hs
  unfold B64D.finish at hok hout
  split_ifs at hok hout with hfail hpad hzero htwo hthree
  · simp at hok
  · simp at hok
  · exact ⟨by bv_omega, .inl ⟨by simp [hzero], hout.symm⟩⟩
  · exact ⟨by bv_omega, .inr ⟨htwo.1, .inl (by simp [htwo.2]), by simp [htwo.2, ← hout]⟩⟩
  · exact ⟨by bv_omega, .inr ⟨hthree.1, .inr (by simp [hthree.2]), by simp [hthree.2, ← hout]⟩⟩
  · simp at hok

/-- After the first of two padding characters the other one must come, and then only whitespace. -/
theorem B64D.Succeeds.of_firstPad (hs : (B64D.symbols text u).Succeeds out) (h : u.InGroup v bytes 2 1) :
    ∃ w, text = padChar :: w ∧ wsRun w = true ∧ out = bytes ++ unpack64 u.v[0] u.v[1] u.v[2] u.v[3] 2 := by
  have hcnt := h.cnt
  have hpadcnt := h.padcnt
  cases text with
  | nil =>
    have hnone := (B64D.Succeeds.at_end hs).1
    rw [B64D.symbols_nil] at hnone
    omega
  | cons x rest =>
    cases hs.accepts with
    | whitespace _ hbetween => simp only at hbetween; omega
    | lastPad hx _ htwo hfull =>
      subst hx
      rw [B64D.symbols_cons, B64D.symbol_lastPad h.count.fail h.count.closed htwo hfull] at hs
      simp only [hcnt] at hs
      obtain ⟨hw, hout⟩ := hs.of_closed ⟨congrArg (· ++ _) h.obuf, rfl, rfl, h.fail⟩ rfl
      exact ⟨rest, rfl, hw, hout⟩
    | firstPad _ _ _ hmore => simp only at hmore; omega
    | lastData _ _ hnone => simp only at hnone; omega
    | data _ _ hnone => simp only at hnone; omega

/-- `END` takes complete groups, and in the URL variant a short one after them (41_base64.md R153). -/
theorem B64D.Open.decoding_end (h : u.Open v bytes g) (hs : u.Succeeds out) :
    ∃ tail, out = bytes ++ tail ∧ Decoding64 v g tail := by
  obtain ⟨-, ⟨hzero, hout⟩ | ⟨hv, hlen, hout⟩⟩ := hs.at_end
  · obtain rfl : g = [] := List.eq_nil_of_length_eq_zero (h.cnt.symm.trans hzero)
    exact ⟨[], by rw [hout, h.obuf, List.append_nil], .nil⟩
  · rw [h.cnt] at hlen hout
    rw [h.unpack (by omega), h.obuf] at hout
    exact ⟨groupBytes64 v g, hout, .unpadded (h.variant.symm.trans hv) hlen h.run⟩

/-- A text that ends well is decoded by the rule, the open group put before it. -/
theorem B64D.Open.decoding (h : u.Open v bytes g) (hs : (B64D.symbols text u).Succeeds out) :
    ∃ tail, out = bytes ++ tail ∧ Decoding64 v (g ++ text) tail := by
  induction text generalizing u bytes g with
  | nil => simpa using h.decoding_end hs
  | cons x rest ih =>
    have hcnt := h.cnt
    have hpadcnt := h.padcnt
    cases hs.accepts with
    | whitespace hws hbetween =>
      obtain rfl : g = [] := List.eq_nil_of_length_eq_zero (hcnt.symm.trans hbetween.1)
      rw [B64D.symbols_cons, B64D.symbol_whitespace_between h.count.fail hws hbetween] at hs
      obtain ⟨tail, hout, hd⟩ := ih h.count hs
      exact ⟨tail, hout, .whitespace hws hd⟩
    | lastPad hx _ htwo hfull =>
      subst hx
      rw [B64D.symbols_cons, B64D.symbol_lastPad h.count.fail h.count.closed htwo hfull] at hs
      simp only [hcnt] at hs hfull
      obtain ⟨hw, hout⟩ := hs.of_closed ⟨congrArg (· ++ _) h.obuf, rfl, rfl, h.fail⟩ rfl
      have hlen : g.length = 3 := by omega
      refine ⟨groupBytes64 v g, by rw [hout, ← h.unpack (by omega)], ?_⟩
      simpa [hlen] using Decoding64.padded (.inr hlen) h.run hw
    | firstPad hx _ htwo hmore =>
      subst hx
      rw [B64D.symbols_cons, B64D.symbol_firstPad h.count.fail h.count.closed htwo hmore] at hs
      simp only [hcnt] at htwo hmore
      have hlen : g.length = 2 := by omega
      obtain ⟨w, rfl, hw, hout⟩ := hs.of_firstPad ⟨h.variant, h.obuf, hcnt.trans hlen, rfl, h.closed, h.fail⟩
      refine ⟨groupBytes64 v g, by rw [hout, ← h.unpack (by omega), hlen], ?_⟩
      simpa [hlen, List.replicate_succ] using Decoding64.padded (.inl hlen) h.run hw
    | lastData hx _ _ hthree =>
      have hlen : g.length = 3 := hcnt.symm.trans hthree
      rw [h.count.variant] at hx
      obtain ⟨tail, hout, hd⟩ := ih (h.count.lastData hlen hx) hs
      refine ⟨groupBytes64 v (g ++ [x]) ++ tail, by simp [hout], ?_⟩
      simpa using Decoding64.group (by simp [hlen]) (dataRun64_concat h.run hx) hd
    | data hx _ _ hless =>
      rw [h.count.variant] at hx
      obtain ⟨tail, hout, hd⟩ := ih (h.count.data (hcnt ▸ hless) hx) hs
      exact ⟨tail, hout, by simpa using hd⟩

/-- B64D after `START` is between groups, with nothing in `OBUF` (10_state.md R50). -/
theorem B64D.cleared_open (p : Port) (cfg : Cfg) : (B64D.cleared (p.onStart cfg)).Open (variantOf cfg) [] [] :=
  ⟨⟨rfl, rfl, rfl, rfl, rfl, rfl⟩, rfl, .zero⟩

/-- A whole text ends well exactly where the rule decodes it. -/
theorem B64D.succeeds_iff (h : u.Open v [] []) : (B64D.symbols text u).Succeeds out ↔ DecodesTo64 v text out := by
  rw [decodesTo64_iff]
  constructor
  · intro hs
    obtain ⟨tail, rfl, hd⟩ := h.decoding hs
    exact hd
  · exact fun hd => hd.succeeds h

theorem B64D.finish_out_of_not_ok (u : B64D) (h : u.finish.port.ok = false) : u.finish.port.out = [] := by
  unfold B64D.finish at h ⊢
  split_ifs at h ⊢
  · rfl
  · rfl
  · nomatch h
  · nomatch h
  · nomatch h
  · rfl

/-- A Base64 decode operation computes `dec64` (41_base64.md R154 to R156). -/
theorem exec_b64d_decodes {op : List Byte → Instr} (hop : OperationOf op .b64d v) {s : State} (hstart : s.canStart .b64d)
    (hfits : s.params.admits text.length = true) :
    ∃ t, exec (op text) s = .next t ∧ t.b64d.port.st = .done
      ∧ (∀ bytes, (t.b64d.port.ok = true ∧ t.b64d.port.out = bytes) ↔ DecodesTo64 v text bytes)
      ∧ (t.b64d.port.ok = false → t.b64d.port.out = []) := by
  have hopen : (s.applyStart .b64d (op []).cfg).b64d.Open v [] [] := hop.variant ▸ B64D.cleared_open ..
  have hexec := exec_of_unit (hop.unit text) hstart (by rwa [hop.message])
  rw [hop.cfg, hop.message] at hexec
  refine ⟨_, hexec, (applyFinish_port .b64d _).2.1, fun bytes => ?_, ?_⟩
  · rw [← B64D.succeeds_iff hopen, afterTransaction_b64d]
    rfl
  · rw [afterTransaction_b64d]
    exact B64D.finish_out_of_not_ok _

end Registers

/-- Settles O17: both operations compute `dec64`, for their own variant. -/
theorem b64DecodersGiveDec64 : Obligations.B64DecodersGiveDec64 := fun _ _ hstart hfits =>
  ⟨exec_b64d_decodes (b64d_operationOf (.inl ⟨rfl, rfl⟩)) hstart hfits,
    exec_b64d_decodes (b64d_operationOf (.inr ⟨rfl, rfl⟩)) hstart hfits⟩

end Sys2Proof.Machine
end

section
/-! SUPPORT. The event rules of B32E and B32D, register by register (42_base32.md R171, R172, R181, R183). -/

namespace Sys2Proof.Machine

open Sys2Proof

section B32E

variable (x : Byte) {u : B32E}

/-- A byte that does not complete the group is stored (42_base32.md R171). -/
theorem B32E.symbol_stored (h : u.cnt.toNat < 4) :
    B32E.symbol x u = { u with b := u.b.setIfInBounds u.cnt.toNat x, cnt := u.cnt + 1 } := if_pos h

/-- The fifth byte completes the group (42_base32.md R171). -/
theorem B32E.symbol_complete (h : u.cnt.toNat = 4) :
    B32E.symbol x u =
      { u with
        port := u.port.append ((pack32 u.b[0] u.b[1] u.b[2] u.b[3] x).map (e32 (variantOf u.port.cfg)))
        cnt := 0 } :=
  if_neg (by omega)

/-- The group `END` packs: the bytes held, then zero bytes (42_base32.md R172). -/
theorem B32E.take_append_zeros (h : u.cnt.toNat ≤ 4) :
    u.b.toList.take u.cnt.toNat ++ List.replicate (5 - u.cnt.toNat) 0 =
      [u.held 0, u.held 1, u.held 2, u.held 3, u.held 4] := by
  have hgroup : List.ofFn u.held = [u.held 0, u.held 1, u.held 2, u.held 3, u.held 4] := rfl
  rw [← hgroup]
  refine List.ext_getElem (by simp; omega) fun i _ _ => ?_
  rw [List.getElem_ofFn]
  by_cases hi : i < u.cnt.toNat
  · rw [List.getElem_append_left (by simp; omega)]
    simp [B32E.held, hi]
  · simp [List.getElem_append, B32E.held, hi]

/-- A Base32 encode operation ends in DONE with `OK` and `enc32` of its message (42_base32.md R173 to R176). -/
theorem exec_b32e_done {i : Instr} {s : State} (hu : i.unit = .b32e) (hstart : s.canStart .b32e)
    (hfits : s.params.admits i.message.length = true) {variant pad : BitVec 1}
    (hcfg : variantOf i.cfg = variant ∧ flagOf i.cfg = pad) :
    ∃ t, exec i s = .next t ∧ t.b32e.port.ok = true ∧ t.b32e.port.st = .done
      ∧ t.b32e.port.out = enc32 variant pad i.message := by
  obtain ⟨t, ht, hout⟩ := exec_b32e_out hu hstart hfits hcfg.1 hcfg.2
  obtain ⟨-, -, -, rfl⟩ := exec_inv ht
  rw [hu] at ht hout
  exact ⟨_, ht, rfl, rfl, hout⟩

end B32E

/-- Settles O12: the two event rules are the equations of `symbol` and the group of `tail`, an operation is `exec_b32e_done`. -/
theorem b32EncoderEventsAndOperations : Obligations.B32EncoderEventsAndOperations := by
  refine ⟨fun s x hrun hfits => ?_, fun s hrun hcnt => ?_, fun bytes s hstart hfits => ⟨?_, ?_, ?_, ?_⟩⟩
  · refine ⟨_, present_symbol x hrun hfits, applySymbol_cfg .b32e x s, fun h => ?_, fun h => ?_⟩
    · have hreg : (s.applySymbol .b32e x).b32e = _ :=
        B32E.symbol_stored (u := { s.b32e with port := s.b32e.port.count }) x h
      rw [hreg]
      exact ⟨Vector.toList_setIfInBounds, by simp only; bv_omega, rfl⟩
    · have hreg : (s.applySymbol .b32e x).b32e = _ :=
        B32E.symbol_complete (u := { s.b32e with port := s.b32e.port.count }) x h
      rw [hreg]
      exact ⟨rfl, rfl, rfl⟩
  · refine ⟨_, s.b32e.tail, present_finish hrun, rfl, rfl, rfl, rfl, rfl, ?_⟩
    rw [B32E.take_append_zeros hcnt]
    rfl
  · exact exec_b32e_done (i := .b32encStdNopad bytes) rfl hstart hfits (by decide : variantOf 0b00 = 0 ∧ flagOf 0b00 = 0)
  · exact exec_b32e_done (i := .b32encStdPad bytes) rfl hstart hfits (by decide : variantOf 0b10 = 0 ∧ flagOf 0b10 = 1)
  · exact exec_b32e_done (i := .b32encHexNopad bytes) rfl hstart hfits (by decide : variantOf 0b01 = 1 ∧ flagOf 0b01 = 0)
  · exact exec_b32e_done (i := .b32encHexPad bytes) rfl hstart hfits (by decide : variantOf 0b11 = 1 ∧ flagOf 0b11 = 1)

section Usable

variable {odd : OddCount} {n k : Nat}

/-- A group that carries bytes has two data symbols at least, whatever `B32_ODD_COUNT` is (42_base32.md R181). -/
theorem two_le_of_usable32 (h : usable32 odd n = some k) : 2 ≤ n := by
  match n with
  | 0 => nomatch h
  | 1 => nomatch h
  | n + 2 => omega

/-- A group has eight data symbols at most. -/
theorem usable32_le_eight (h : usable32 odd n = some k) : n ≤ 8 := by
  by_contra hn
  obtain ⟨m, rfl⟩ := Nat.exists_eq_add_of_le' (Nat.lt_of_not_le hn)
  nomatch h

/-- With `fail`, a group carries bytes in all its data symbols or fails (42_base32.md R181, R183). -/
theorem usable32_fail_whole (hn : n = 2 ∨ n = 4 ∨ n = 5 ∨ n = 7) : usable32 .fail n = some n := by
  rcases hn with rfl | rfl | rfl | rfl <;> rfl

theorem usable32_fail_none (hn : n < 2 ∨ n = 3 ∨ n = 6) : usable32 .fail n = none := by
  rcases hn with hn | rfl | rfl
  · cases h : usable32 .fail n with
    | none => rfl
    | some k => exact absurd (two_le_of_usable32 h) (by omega)
  · rfl
  · rfl

end Usable

section B32D

/-! One equation per arm of 42_base32.md R181 and R183. Whether a group may be padded or may end is `usable32`. -/

variable {odd : OddCount} {u : B32D} {x : Byte} {k : Nat}

theorem B32D.symbol_of_failed (h : u.fail = true) : B32D.symbol odd x u = u := if_pos h

/-- `END` commits from `OBUF` and leaves it as it was (log entry 11). -/
theorem B32D.finish_obuf (odd : OddCount) (u : B32D) : (u.finish odd).port.obuf = u.port.obuf := by
  unfold B32D.finish
  repeat' split
  all_goals rfl

theorem B32D.finish_of_failed (h : u.fail = true) : u.finish odd = { u with port := u.port.failAtEnd } := if_pos h

section Symbol

variable (hfail : u.fail = false)
include hfail

theorem B32D.symbol_whitespace_between (hws : isWs x = true) (h : u.cnt.toNat = 0 ∧ u.padcnt.toNat = 0) :
    B32D.symbol odd x u = u := by
  simp [B32D.symbol, hfail, hws, ← BitVec.toNat_inj, h]

theorem B32D.symbol_whitespace_within (hws : isWs x = true) (h : ¬(u.cnt.toNat = 0 ∧ u.padcnt.toNat = 0)) :
    B32D.symbol odd x u = u.raise .structural := by
  simpa [B32D.symbol, hfail, hws, ← BitVec.toNat_inj] using fun h0 h1 => absurd ⟨h0, h1⟩ h

theorem B32D.symbol_closed (hws : isWs x = false) (hclosed : u.closed = true) :
    B32D.symbol odd x u = u.raise .structural := by
  simp [B32D.symbol, hfail, hws, hclosed]

variable (hclosed : u.closed = false)
include hclosed

section Pad

/-- A group that cannot be padded fails at its first `=`, under either label. -/
theorem B32D.symbol_unusablePad (husable : usable32 odd u.cnt.toNat = none) :
    B32D.symbol odd padChar u = { u with fail := true } := by
  by_cases hcnt : u.cnt.toNat < 2 <;> simp [B32D.symbol, B32D.raise, hfail, hclosed, hcnt, husable]

variable (husable : usable32 odd u.cnt.toNat = some k)
include husable

theorem B32D.symbol_lastPad (hfull : u.cnt.toNat + u.padcnt.toNat + 1 = 8) :
    B32D.symbol odd padChar u =
      { u with port := u.port.append (u.unpack k), cnt := 0, padcnt := 0, closed := true } := by
  simp [B32D.symbol, hfail, hclosed, husable, hfull, Nat.not_lt.2 (two_le_of_usable32 husable)]

theorem B32D.symbol_pad (hmore : u.cnt.toNat + u.padcnt.toNat + 1 ≠ 8) :
    B32D.symbol odd padChar u = { u with padcnt := u.padcnt + 1 } := by
  simp [B32D.symbol, hfail, hclosed, husable, hmore, Nat.not_lt.2 (two_le_of_usable32 husable)]

end Pad

section Data

theorem B32D.symbol_foreign (hws : isWs x = false) (hpad : x ≠ padChar)
    (hx : d32 (variantOf u.port.cfg) x = sentinel) : B32D.symbol odd x u = u.raise .symbol := by
  have hispad : isPad x = false := beq_false_of_ne hpad
  simp [B32D.symbol, hfail, hclosed, hws, hispad, hx]

variable (hx : d32 (variantOf u.port.cfg) x ≠ sentinel)
include hx

theorem B32D.symbol_data_after_pad (hpadcnt : 0 < u.padcnt.toNat) : B32D.symbol odd x u = u.raise .structural := by
  obtain ⟨hws, hispad⟩ := not_ws_and_not_pad_of_d32_ne hx
  simp [B32D.symbol, hfail, hclosed, hws, hispad, hx, ← BitVec.toNat_inj, hpadcnt.ne']

theorem B32D.symbol_lastData (hpadcnt : u.padcnt.toNat = 0) (hcnt : u.cnt.toNat = 7) :
    B32D.symbol odd x u =
      { u with
        port := u.port.append (unpack32 u.c[0] u.c[1] u.c[2] u.c[3] u.c[4] u.c[5] u.c[6]
          ((d32 (variantOf u.port.cfg) x).setWidth 5) 8)
        cnt := 0 } := by
  obtain ⟨hws, hispad⟩ := not_ws_and_not_pad_of_d32_ne hx
  simp [B32D.symbol, hfail, hclosed, hws, hispad, hx, ← BitVec.toNat_inj, hpadcnt, hcnt]

theorem B32D.symbol_data (hpadcnt : u.padcnt.toNat = 0) (hcnt : u.cnt.toNat < 7) :
    B32D.symbol odd x u =
      { u with
        c := u.c.setIfInBounds u.cnt.toNat ((d32 (variantOf u.port.cfg) x).setWidth 5)
        cnt := u.cnt + 1 } := by
  obtain ⟨hws, hispad⟩ := not_ws_and_not_pad_of_d32_ne hx
  simp [B32D.symbol, hfail, hclosed, hws, hispad, hx, ← BitVec.toNat_inj, hpadcnt, hcnt.ne]

end Data

end Symbol

section Finish

variable (hfail : u.fail = false)
include hfail

theorem B32D.finish_within_padding (hpadcnt : 0 < u.padcnt.toNat) :
    u.finish odd = { u with port := u.port.failAtEnd } := by
  simp [B32D.finish, hfail, ← BitVec.toNat_inj, hpadcnt.ne']

variable (hpadcnt : u.padcnt.toNat = 0)
include hpadcnt

theorem B32D.finish_between (hcnt : u.cnt.toNat = 0) :
    u.finish odd = { u with port := u.port.succeed u.port.obuf } := by
  simp [B32D.finish, hfail, ← BitVec.toNat_inj, hpadcnt, hcnt]

theorem B32D.finish_unusable (hcnt : u.cnt.toNat ≠ 0) (husable : usable32 odd u.cnt.toNat = none) :
    u.finish odd = { u with port := u.port.failAtEnd } := by
  simp [B32D.finish, hfail, ← BitVec.toNat_inj, hpadcnt, hcnt, husable]

theorem B32D.finish_usable (husable : usable32 odd u.cnt.toNat = some k) :
    u.finish odd = { u with port := u.port.succeed (u.port.obuf ++ u.unpack k) } := by
  have hcnt : u.cnt.toNat ≠ 0 := by have := two_le_of_usable32 husable; omega
  simp [B32D.finish, hfail, ← BitVec.toNat_inj, hpadcnt, hcnt, husable]

end Finish

end B32D

/-- Settles O15: the arms one by one, in the rule's order; with `fail`, `usable32` is the list of counts the rule names. -/
theorem b32DecoderEvents : Obligations.B32DecoderEvents := by
  refine ⟨fun s x hodd hrun hfits => ⟨s.applySymbol .b32d x, ?_⟩, fun s hodd hrun => ⟨s.applyFinish .b32d, ?_⟩⟩
  · have hsent : (s.applySymbol .b32d x).b32d.port.sent = s.b32d.port.sent + 1 := applySymbol_sent .b32d x s
    intro u d
    have hu : u = { s.b32d with port := s.b32d.port.count } := by simp only [u, hsent]; rfl
    have ht : (s.applySymbol .b32d x).b32d = B32D.symbol .fail x u := by rw [hu, ← hodd]; rfl
    rw [ht]
    clear_value u
    refine ⟨present_symbol x hrun hfits, B32D.symbol_of_failed,
      fun hfail hws => ⟨B32D.symbol_whitespace_between hfail hws, B32D.symbol_whitespace_within hfail hws⟩,
      B32D.symbol_closed, fun hfail hclosed hx => ?_, fun hfail hclosed hws hx => ?_⟩
    · subst hx
      refine ⟨fun hcnt => B32D.symbol_unusablePad hfail hclosed (usable32_fail_none hcnt), fun hcnt => ?_⟩
      have husable := usable32_fail_whole hcnt
      exact ⟨B32D.symbol_lastPad hfail hclosed husable, B32D.symbol_pad hfail hclosed husable⟩
    · refine ⟨B32D.symbol_foreign hfail hclosed hws hx, B32D.symbol_data_after_pad hfail hclosed,
        B32D.symbol_lastData hfail hclosed, fun hd hpadcnt hcnt => ?_⟩
      rw [B32D.symbol_data hfail hclosed hd hpadcnt hcnt]
      exact ⟨rfl, Vector.toList_setIfInBounds, by simp only; bv_omega⟩
  · intro ends
    have ht : (s.applyFinish .b32d).b32d = s.b32d.finish .fail := by rw [← hodd]; rfl
    simp only [ends, ht, B32D.finish_obuf]
    refine ⟨present_finish hrun, rfl, B32D.finish_of_failed, B32D.finish_within_padding, B32D.finish_between,
      fun hfail hpadcnt hcnt => ?_, fun hfail hpadcnt hcnt => ?_⟩
    · exact B32D.finish_unusable hfail hpadcnt (by omega) (usable32_fail_none (by omega))
    · exact B32D.finish_usable hfail hpadcnt (usable32_fail_whole hcnt)

end Sys2Proof.Machine
end

section
/-! SUPPORT. B32D against `dec32` (42_base32.md R184), for either value of `B32_ODD_COUNT`: the texts the rule decodes, read from the
left, and the registers in the middle of such a text. -/

namespace Sys2Proof.Machine

open Sys2Proof

section Texts

variable {odd : OddCount} {v : BitVec 1} {g w text bytes : List Byte} {x : Byte} {k : Nat}

/-- The texts `dec32` succeeds on and their bytes, read from the left: whitespace and full groups, and at most one short group of a
count that carries bytes, padded or unpadded, at the end (42_base32.md R184). -/
inductive Decoding32 (odd : OddCount) (v : BitVec 1) : List Byte → List Byte → Prop where
  | nil : Decoding32 odd v [] []
  | whitespace {x : Byte} {text bytes : List Byte} (hx : isWs x = true) (h : Decoding32 odd v text bytes) :
    Decoding32 odd v (x :: text) bytes
  | group {g text bytes : List Byte} (hlen : g.length = 8) (hg : dataRun32 v g = true) (h : Decoding32 odd v text bytes) :
    Decoding32 odd v (g ++ text) (groupBytes32 odd v g ++ bytes)
  | padded {g w : List Byte} (hlen : g.length ≤ 7) (husable : (usable32 odd g.length).isSome = true)
    (hg : dataRun32 v g = true) (hw : wsRun w = true) :
    Decoding32 odd v (g ++ (List.replicate (8 - g.length) padChar ++ w)) (groupBytes32 odd v g)
  | unpadded {g : List Byte} (hlen : g.length ≤ 7) (husable : (usable32 odd g.length).isSome = true)
    (hg : dataRun32 v g = true) : Decoding32 odd v g (groupBytes32 odd v g)

theorem Decoding32.whitespaceRun (hw : wsRun w = true) (h : Decoding32 odd v text bytes) :
    Decoding32 odd v (w ++ text) bytes := by
  induction w with
  | nil => exact h
  | cons x rest ih =>
    simp only [wsRun, List.all_cons, Bool.and_eq_true] at hw
    exact .whitespace hw.1 (ih hw.2)

/-- The cells `C[0]` to `C[7]` with the digit values of the data characters `g`, and 0 in the others. -/
def cells32 (v : BitVec 1) (g : List Byte) : Vector Digit32 8 :=
  let ds := g.map fun c => (d32 v c).setWidth 5
  #v[ds.getD 0 0, ds.getD 1 0, ds.getD 2 0, ds.getD 3 0, ds.getD 4 0, ds.getD 5 0, ds.getD 6 0, ds.getD 7 0]

theorem cells32_write (v : BitVec 1) {g : List Byte} (h : g.length < 8) (x : Byte) :
    (cells32 v g).setIfInBounds g.length ((d32 v x).setWidth 5) = cells32 v (g ++ [x]) := by
  match g, h with
  | [], _ => rfl
  | [_], _ => rfl
  | [_, _], _ => rfl
  | [_, _, _], _ => rfl
  | [_, _, _, _], _ => rfl
  | [_, _, _, _, _], _ => rfl
  | [_, _, _, _, _, _], _ => rfl
  | [_, _, _, _, _, _, _], _ => rfl

theorem dataRun32_concat (hg : dataRun32 v g = true) (hx : d32 v x ≠ sentinel) : dataRun32 v (g ++ [x]) = true := by
  simp_all [dataRun32]

/-- No character of a data run is padding. -/
theorem filter_not_isPad_of_dataRun32 (hg : dataRun32 v g = true) : g.filter (fun c => !isPad c) = g := by
  refine List.filter_eq_self.2 fun c hc => ?_
  have hne : d32 v c ≠ sentinel := by simpa using List.all_eq_true.1 hg c hc
  simp [(not_ws_and_not_pad_of_d32_ne hne).2]

/-- The bytes of a group come from its data characters alone. -/
theorem groupBytes32_padded (odd : OddCount) (v : BitVec 1) (g : List Byte) (n : Nat) :
    groupBytes32 odd v (g ++ List.replicate n padChar) = groupBytes32 odd v g := by
  simp [groupBytes32, List.filter_append]

theorem groupBytes32_data (hg : dataRun32 v g = true) (husable : usable32 odd g.length = some k) :
    groupBytes32 odd v g =
      unpack32 (cells32 v g)[0] (cells32 v g)[1] (cells32 v g)[2] (cells32 v g)[3] (cells32 v g)[4] (cells32 v g)[5]
        (cells32 v g)[6] (cells32 v g)[7] k := by
  simp [groupBytes32, filter_not_isPad_of_dataRun32 hg, cells32, husable]

end Texts

section Rule

variable {odd : OddCount} {v : BitVec 1} {g d e w text bytes : List Byte}

/-- The data characters `d` of a final group, then its padding and whitespace, or nothing (42_base32.md R184 (b)). -/
theorem Decoding32.of_data (hd : dataRun32 v d = true) (husable : (usable32 odd d.length).isSome = true)
    (hw : wsRun w = true) (he : e = List.replicate (8 - d.length) padChar ∨ e = [] ∧ w = []) :
    Decoding32 odd v (d ++ (e ++ w)) (groupBytes32 odd v (d ++ e)) := by
  obtain ⟨k, hk⟩ := Option.isSome_iff_exists.1 husable
  have hle := usable32_le_eight hk
  by_cases hfull : d.length = 8
  · obtain rfl : e = [] := he.elim (fun h => by simpa [hfull] using h) And.left
    simpa using Decoding32.group hfull hd (.whitespaceRun hw .nil)
  · rcases he with rfl | ⟨rfl, rfl⟩
    · rw [groupBytes32_padded]
      exact .padded (by omega) husable hd hw
    · simpa using Decoding32.unpadded (by omega) husable hd

/-- A final group of the rule, with the whitespace after it. -/
theorem Decoding32.of_lastGroup32 (h : lastGroup32 odd v g w = true) (hw : wsRun w = true) :
    Decoding32 odd v (g ++ w) (groupBytes32 odd v g) := by
  simp only [lastGroup32, Bool.or_eq_true, Bool.and_eq_true, beq_iff_eq] at h
  obtain ⟨⟨hd, husable⟩, hrest⟩ := h
  have htake : (g.take (dataCount g)).length = dataCount g := List.length_take_of_le (List.length_filter_le _ g)
  have hsplit := Decoding32.of_data (odd := odd) (e := g.drop (dataCount g)) hd (by rwa [htake]) hw
    (by rw [htake]; exact hrest.imp_right fun ⟨hlen, hnone⟩ => ⟨List.drop_of_length_le hlen.le, hnone⟩)
  rwa [← List.append_assoc, List.take_append_drop] at hsplit

theorem lastGroup32_padded (husable : (usable32 odd g.length).isSome = true) (hg : dataRun32 v g = true) (w : List Byte) :
    lastGroup32 odd v (g ++ List.replicate (8 - g.length) padChar) w = true := by
  have hcount : dataCount (g ++ List.replicate (8 - g.length) padChar) = g.length := by
    simp [dataCount, List.filter_append, filter_not_isPad_of_dataRun32 hg]
  simp [lastGroup32, hcount, husable, hg]

theorem lastGroup32_unpadded (husable : (usable32 odd g.length).isSome = true) (hg : dataRun32 v g = true) :
    lastGroup32 odd v g [] = true := by
  simp [lastGroup32, dataCount, filter_not_isPad_of_dataRun32 hg, husable, hg]

theorem Decoding32.of_groups32 {gs : List (List Byte × List Byte)} (h : groups32 odd v gs = true) :
    Decoding32 odd v (gs.flatMap fun p => p.1 ++ p.2) (gs.flatMap fun p => groupBytes32 odd v p.1) := by
  induction gs with
  | nil => exact .nil
  | cons p rest ih =>
    cases rest with
    | nil =>
      simp only [groups32, Bool.and_eq_true] at h
      simpa using Decoding32.of_lastGroup32 h.1 h.2
    | cons q rest =>
      simp only [groups32, Bool.and_eq_true, beq_iff_eq] at h
      obtain ⟨⟨⟨hlen, hg⟩, hw⟩, hrest⟩ := h
      rw [List.flatMap_cons, List.append_assoc]
      exact .group hlen hg (.whitespaceRun hw (ih hrest))

/-- Reading from the left finds the decompositions of R184. -/
theorem decodesTo32_iff : DecodesTo32 odd v text bytes ↔ Decoding32 odd v text bytes := by
  constructor
  · rintro ⟨w0, gs, hw0, hgs, rfl, rfl⟩
    exact .whitespaceRun hw0 (.of_groups32 hgs)
  · intro h
    induction h with
    | nil => exact ⟨[], [], rfl, rfl, rfl, rfl⟩
    | whitespace hx h ih =>
      obtain ⟨w0, gs, hw0, hgs, rfl, rfl⟩ := ih
      exact ⟨_ :: w0, gs, by simpa [wsRun, hx] using hw0, hgs, rfl, rfl⟩
    | @group g text bytes hlen hg h ih =>
      obtain ⟨w0, gs, hw0, hgs, rfl, rfl⟩ := ih
      refine ⟨[], (g, w0) :: gs, rfl, ?_, by simp, by simp⟩
      cases gs with
      | nil =>
        have hlast : lastGroup32 odd v g w0 = true := by
          simpa [hlen] using lastGroup32_padded (odd := odd) (by rw [hlen]; rfl) hg w0
        simp [groups32, hlast, hw0]
      | cons p rest => simp [groups32, hlen, hg, hw0, hgs]
    | @padded g w hlen husable hg hw =>
      refine ⟨[], [(g ++ List.replicate (8 - g.length) padChar, w)], rfl, ?_, by simp, by simp [groupBytes32_padded]⟩
      simp [groups32, lastGroup32_padded husable hg, hw]
    | @unpadded g hlen husable hg =>
      refine ⟨[], [(g, [])], rfl, ?_, by simp, by simp⟩
      simp [groups32, lastGroup32_unpadded husable hg, wsRun]

end Rule

section Registers

variable {odd : OddCount} {v : BitVec 1} {g w text bytes out tail : List Byte} {u : B32D} {x : Byte} {j k p n : Nat}

/-- When a `SYMBOL` does not fail: the arms of 42_base32.md R181 that raise nothing. -/
inductive B32D.Accepts (odd : OddCount) (x : Byte) (u : B32D) : Prop where
  | whitespace (hws : isWs x = true) (h : u.cnt.toNat = 0 ∧ u.padcnt.toNat = 0)
  | pad (hx : x = padChar) (hclosed : u.closed = false) (husable : (usable32 odd u.cnt.toNat).isSome = true)
  | lastData (hx : d32 (variantOf u.port.cfg) x ≠ sentinel) (hclosed : u.closed = false) (hpadcnt : u.padcnt.toNat = 0)
    (hcnt : u.cnt.toNat = 7)
  | data (hx : d32 (variantOf u.port.cfg) x ≠ sentinel) (hclosed : u.closed = false) (hpadcnt : u.padcnt.toNat = 0)
    (hcnt : u.cnt.toNat < 7)

theorem B32D.accepts_of_not_failed (h : (B32D.symbol odd x u).fail = false) : u.Accepts odd x := by
  have pad (hclosed : u.closed = false) (hpad : isPad x = true) (husable : usable32 odd u.cnt.toNat ≠ none) :
      u.Accepts odd x :=
    .pad (beq_iff_eq.1 hpad) hclosed (Option.isSome_iff_ne_none.2 husable)
  unfold B32D.symbol at h
  split_ifs at h with hfail hws hbetween hclosed hpad hcnt hfull hdata hpadcnt hlast
  · simp [hfail] at h
  · exact .whitespace hws (by simp [hbetween])
  · nomatch h
  · nomatch h
  · nomatch h
  · exact pad (by simpa using hclosed) hpad fun hnone => by simp [hnone, B32D.raise] at h
  · exact pad (by simpa using hclosed) hpad fun hnone => by simp [hnone, B32D.raise] at h
  · nomatch h
  · nomatch h
  · exact .lastData hdata (by simpa using hclosed) (by bv_omega) (by simp [hlast])
  · exact .data hdata (by simpa using hclosed) (by bv_omega) (by bv_omega)

/-- A failure stays until `END`, which then gives nothing (60_exceptions.md R255). -/
theorem B32D.Succeeds.not_failed (h : (B32D.symbols odd text u).Succeeds odd out) : u.fail = false := by
  by_contra hfail
  rw [Bool.not_eq_false] at hfail
  induction text generalizing u with
  | nil => simp [B32D.Succeeds, B32D.finish_of_failed hfail] at h
  | cons x rest ih =>
    rw [B32D.symbols_cons, B32D.symbol_of_failed (u := { u with port := u.port.count }) hfail] at h
    exact ih h hfail

/-- The first symbol of a text that ends well is accepted. -/
theorem B32D.Succeeds.accepts (h : (B32D.symbols odd (x :: text) u).Succeeds odd out) :
    { u with port := u.port.count }.Accepts odd x :=
  B32D.accepts_of_not_failed (B32D.Succeeds.not_failed h)

/-- B32D between or within groups, with the data characters `g` of the open group taken and their values in the cells. -/
structure B32D.Open (v : BitVec 1) (bytes g : List Byte) (u : B32D) : Prop extends u.InGroup v bytes g.length 0 where
  run : dataRun32 v g = true
  cells : SameBelow g.length (cells32 v g) u.c

theorem B32D.Open.count (h : u.Open v bytes g) : { u with port := u.port.count }.Open v bytes g :=
  ⟨h.toInGroup.count, h.run, h.cells⟩

/-- The bytes of the open group. -/
theorem B32D.Open.unpack (h : u.Open v bytes g) (husable : usable32 odd g.length = some k) :
    u.unpack k = groupBytes32 odd v g := by
  rw [groupBytes32_data h.run husable]
  exact unpack32_agree (h.cells.mono (usable32_le husable))

theorem B32D.Open.data (h : u.Open v bytes g) (hlen : g.length < 7) (hx : d32 v x ≠ sentinel) :
    (B32D.symbol odd x u).Open v bytes (g ++ [x]) := by
  refine ⟨?_, dataRun32_concat h.run hx, ?_⟩
  · simpa using h.toInGroup.data hlen hx
  · rw [h.symbol_data hlen hx, ← cells32_write v (by omega), List.length_append]
    exact h.cells.write _

/-- The eighth data character completes the group: its bytes are appended (42_base32.md R181). -/
theorem B32D.Open.lastData (h : u.Open v bytes g) (hlen : g.length = 7) (hx : d32 v x ≠ sentinel) :
    (B32D.symbol odd x u).Open v (bytes ++ groupBytes32 odd v (g ++ [x])) [] := by
  have hgroup : unpack32 u.c[0] u.c[1] u.c[2] u.c[3] u.c[4] u.c[5] u.c[6] ((d32 v x).setWidth 5) 8 =
      groupBytes32 odd v (g ++ [x]) := by
    have hcells := h.cells.write ((d32 v x).setWidth 5)
    rw [cells32_write v (by omega), hlen] at hcells
    rw [groupBytes32_data (k := 8) (dataRun32_concat h.run hx) (by simp [hlen, usable32]), ← unpack32_agree hcells]
    simp
  obtain ⟨⟨hv, hobuf, hcnt, hpadcnt, hclosed, hfail⟩, -, -⟩ := h
  subst hv
  rw [B32D.symbol_lastData hfail hclosed hx hpadcnt (hcnt.trans hlen), hgroup]
  exact ⟨⟨rfl, congrArg (· ++ _) hobuf, rfl, hpadcnt, hclosed, hfail⟩, rfl, .zero⟩

theorem B32D.Open.between (h : u.Open v bytes []) : u.Between bytes :=
  ⟨h.obuf, BitVec.eq_of_toNat_eq h.cnt, BitVec.eq_of_toNat_eq h.padcnt, h.fail⟩

theorem B32D.Open.data_run {g' : List Byte} (h : u.Open v bytes g) (hlen : g.length + g'.length ≤ 7)
    (hg : dataRun32 v g' = true) : (B32D.symbols odd g' u).Open v bytes (g ++ g') := by
  induction g' generalizing u g with
  | nil => simpa using h
  | cons x rest ih =>
    simp only [dataRun32, List.all_cons, Bool.and_eq_true, bne_iff_ne] at hg
    rw [List.length_cons] at hlen
    rw [List.append_cons]
    exact ih (h.count.data (by omega) hg.1) (by simp; omega) hg.2

theorem B32D.Open.group (h : u.Open v bytes []) (hlen : g.length = 8) (hg : dataRun32 v g = true) :
    (B32D.symbols odd g u).Open v (bytes ++ groupBytes32 odd v g) [] := by
  obtain rfl | ⟨init, x, rfl⟩ := List.eq_nil_or_concat' g
  · nomatch hlen
  · simp only [dataRun32, List.all_append, List.all_cons, Bool.and_eq_true, bne_iff_ne] at hg
    obtain ⟨hinit, hx, -⟩ := hg
    have hlen : init.length = 7 := by simpa using hlen
    rw [B32D.symbols_append]
    exact (h.data_run (by simp [hlen]) hinit).count.lastData hlen hx

theorem B32D.Between.count (h : u.Between bytes) : { u with port := u.port.count }.Between bytes :=
  ⟨h.obuf, h.cnt, h.padcnt, h.fail⟩

/-- A `=` that does not end the padding of its group is counted, and the group stays as it is. -/
theorem B32D.InGroup.pad (h : u.InGroup v bytes k p) (husable : usable32 odd k = some j) (hmore : k + p + 1 < 8) :
    (B32D.symbol odd padChar u).InGroup v bytes k (p + 1) ∧ (B32D.symbol odd padChar u).unpack j = u.unpack j := by
  obtain ⟨hv, hobuf, hcnt, hpadcnt, hclosed, hfail⟩ := h
  rw [B32D.symbol_pad hfail hclosed (by rwa [hcnt]) (by omega)]
  exact ⟨⟨hv, hobuf, hcnt, by simp only; bv_omega, hclosed, hfail⟩, rfl⟩

/-- The last `=` of a group appends its bytes and closes the message. -/
theorem B32D.InGroup.lastPad (h : u.InGroup v bytes k p) (husable : usable32 odd k = some j) (hfull : k + p + 1 = 8) :
    (B32D.symbol odd padChar u).Between (bytes ++ u.unpack j) ∧ (B32D.symbol odd padChar u).closed = true := by
  obtain ⟨-, hobuf, hcnt, hpadcnt, hclosed, hfail⟩ := h
  rw [B32D.symbol_lastPad hfail hclosed (by rwa [hcnt]) (by omega)]
  exact ⟨⟨congrArg (· ++ _) hobuf, rfl, rfl, hfail⟩, rfl⟩

/-- The padding of a short group, for either value of `B32_ODD_COUNT`, appends the bytes of the group. -/
theorem B32D.InGroup.padding_usable (h : u.InGroup v bytes k p) (husable : usable32 odd k = some j)
    (hn : k + p + (n + 1) = 8) :
    (B32D.symbols odd (List.replicate (n + 1) padChar) u).Between (bytes ++ u.unpack j) := by
  induction n generalizing u p with
  | zero => exact (h.count.lastPad husable hn).1
  | succ n ih =>
    obtain ⟨hpad, hunpack⟩ := h.count.pad husable (by omega)
    rw [List.replicate_succ, B32D.symbols_cons]
    exact hunpack ▸ ih hpad (by omega)

/-- Every text the rule decodes ends well, with the rule's bytes. -/
theorem Decoding32.succeeds (hd : Decoding32 odd v text tail) (h : u.Open v bytes []) :
    (B32D.symbols odd text u).Succeeds odd (bytes ++ tail) := by
  induction hd generalizing u bytes with
  | nil => simpa using h.between.succeeds
  | whitespace hx _ ih =>
    rw [B32D.symbols_cons, B32D.symbol_whitespace_between h.count.fail hx ⟨h.count.cnt, h.count.padcnt⟩]
    exact ih h.count
  | group hlen hg _ ih =>
    rw [B32D.symbols_append, ← List.append_assoc]
    exact ih (h.group hlen hg)
  | @padded g w hlen husable hg hw =>
    obtain ⟨k, hk⟩ := Option.isSome_iff_exists.1 husable
    have hopen : (B32D.symbols odd g u).Open v bytes g := h.data_run (by simpa) hg
    obtain ⟨n, hn⟩ : ∃ n, 8 - g.length = n + 1 := ⟨7 - g.length, by omega⟩
    have hclosed := hopen.toInGroup.padding_usable (n := n) hk (by omega)
    rw [hopen.unpack hk] at hclosed
    rw [B32D.symbols_append, B32D.symbols_append, hn]
    exact (hclosed.whitespace hw).succeeds
  | @unpadded g hlen husable hg =>
    obtain ⟨k, hk⟩ := Option.isSome_iff_exists.1 husable
    have hopen : (B32D.symbols odd g u).Open v bytes g := h.data_run (by simpa) hg
    rw [B32D.Succeeds, B32D.finish_usable hopen.fail hopen.padcnt (by rw [hopen.cnt, hk]), hopen.unpack hk]
    exact ⟨rfl, congrArg (· ++ _) hopen.obuf⟩

/-- After the padding only whitespace ends well. -/
theorem B32D.Succeeds.of_closed (hs : (B32D.symbols odd text u).Succeeds odd out) (h : u.Between bytes)
    (hclosed : u.closed = true) : wsRun text = true ∧ out = bytes := by
  induction text generalizing u with
  | nil => exact ⟨rfl, hs.2.symm.trans h.succeeds.2⟩
  | cons x rest ih =>
    rcases hs.accepts with ⟨hws, hbetween⟩ | ⟨-, hopen⟩ | ⟨-, hopen⟩ | ⟨-, hopen⟩
    · rw [B32D.symbols_cons, B32D.symbol_whitespace_between h.count.fail hws hbetween] at hs
      obtain ⟨hrest, hout⟩ := ih hs h.count hclosed
      exact ⟨by simpa [wsRun, hws] using hrest, hout⟩
    all_goals exact absurd (hclosed.symm.trans hopen) (by decide)

/-- What `END` succeeds on (42_base32.md R183). -/
theorem B32D.Succeeds.at_end (hs : u.Succeeds odd out) : u.padcnt.toNat = 0 ∧
    (u.cnt.toNat = 0 ∧ out = u.port.obuf
    ∨ ∃ k, usable32 odd u.cnt.toNat = some k ∧ out = u.port.obuf ++ u.unpack k) := by
  obtain ⟨hok, hout⟩ := hs
  unfold B32D.finish at hok hout
  split_ifs at hok hout with hfail hpad hzero
  · simp at hok
  · simp at hok
  · exact ⟨by bv_omega, .inl ⟨by simp [hzero], hout.symm⟩⟩
  · cases hk : usable32 odd u.cnt.toNat with
    | none => simp [hk] at hok
    | some k =>
      rw [hk] at hout
      exact ⟨by bv_omega, .inr ⟨k, rfl, hout.symm⟩⟩

/-- Within the padding of a group only the next `=` ends well. -/
theorem B32D.Succeeds.next_pad (hs : (B32D.symbols odd text u).Succeeds odd out) (hpadcnt : u.padcnt.toNat ≠ 0) :
    ∃ rest, text = padChar :: rest := by
  cases text with
  | nil => exact absurd hs.at_end.1 hpadcnt
  | cons x rest =>
    rcases hs.accepts with ⟨-, -, hnone⟩ | ⟨rfl, -, -⟩ | ⟨-, -, hnone⟩ | ⟨-, -, hnone⟩
    · exact absurd hnone hpadcnt
    · exact ⟨rest, rfl⟩
    · exact absurd hnone hpadcnt
    · exact absurd hnone hpadcnt

/-- From a `=` of a short group on, the rest of its padding must come, and then only whitespace. -/
theorem B32D.Succeeds.of_pad (hs : (B32D.symbols odd (padChar :: text) u).Succeeds odd out) (h : u.InGroup v bytes k p)
    (husable : usable32 odd k = some j) (hn : k + p + (n + 1) = 8) :
    ∃ w, text = List.replicate n padChar ++ w ∧ wsRun w = true ∧ out = bytes ++ u.unpack j := by
  induction n generalizing u p text with
  | zero =>
    obtain ⟨hbetween, hclosed⟩ := h.count.lastPad husable hn
    rw [B32D.symbols_cons] at hs
    exact ⟨text, rfl, hs.of_closed hbetween hclosed⟩
  | succ n ih =>
    obtain ⟨hpad, hunpack⟩ := h.count.pad husable (by omega)
    rw [B32D.symbols_cons] at hs
    obtain ⟨rest, rfl⟩ := hs.next_pad (hpad.padcnt.trans_ne p.succ_ne_zero)
    obtain ⟨w, rfl, hw, hout⟩ := ih hs hpad (by omega)
    exact ⟨w, rfl, hw, hout.trans (congrArg (bytes ++ ·) hunpack)⟩

/-- `END` takes complete groups, and a short one after them (42_base32.md R183). -/
theorem B32D.Open.decoding_end (h : u.Open v bytes g) (hs : u.Succeeds odd out) :
    ∃ tail, out = bytes ++ tail ∧ Decoding32 odd v g tail := by
  obtain ⟨-, ⟨hzero, hout⟩ | ⟨k, hk, hout⟩⟩ := hs.at_end
  · obtain rfl : g = [] := List.eq_nil_of_length_eq_zero (h.cnt.symm.trans hzero)
    exact ⟨[], by rw [hout, h.obuf, List.append_nil], .nil⟩
  · have hlen : g.length ≤ 7 := by have := h.cnt; bv_omega
    rw [h.cnt] at hk
    rw [h.unpack hk, h.obuf] at hout
    exact ⟨groupBytes32 odd v g, hout, .unpadded hlen (Option.isSome_of_eq_some hk) h.run⟩

/-- A text that ends well is decoded by the rule, the open group put before it. -/
theorem B32D.Open.decoding (h : u.Open v bytes g) (hs : (B32D.symbols odd text u).Succeeds odd out) :
    ∃ tail, out = bytes ++ tail ∧ Decoding32 odd v (g ++ text) tail := by
  induction text generalizing u bytes g with
  | nil => simpa using h.decoding_end hs
  | cons x rest ih =>
    have hcnt := h.cnt
    cases hs.accepts with
    | whitespace hws hbetween =>
      obtain rfl : g = [] := List.eq_nil_of_length_eq_zero (hcnt.symm.trans hbetween.1)
      rw [B32D.symbols_cons, B32D.symbol_whitespace_between h.count.fail hws hbetween] at hs
      obtain ⟨tail, hout, hd⟩ := ih h.count hs
      exact ⟨tail, hout, .whitespace hws hd⟩
    | pad hx _ husable =>
      subst hx
      have hlen : g.length ≤ 7 := by bv_omega
      simp only [hcnt] at husable
      obtain ⟨k, hk⟩ := Option.isSome_iff_exists.1 husable
      obtain ⟨w, rfl, hw, hout⟩ := hs.of_pad h.toInGroup hk (n := 7 - g.length) (by omega)
      have hpads : 8 - g.length = 7 - g.length + 1 := by omega
      refine ⟨groupBytes32 odd v g, by rw [hout, h.unpack hk], ?_⟩
      simpa [hpads, List.replicate_succ] using Decoding32.padded hlen husable h.run hw
    | lastData hx _ _ hseven =>
      have hlen : g.length = 7 := hcnt.symm.trans hseven
      rw [h.count.variant] at hx
      obtain ⟨tail, hout, hd⟩ := ih (h.count.lastData hlen hx) hs
      refine ⟨groupBytes32 odd v (g ++ [x]) ++ tail, by simp [hout], ?_⟩
      simpa using Decoding32.group (by simp [hlen]) (dataRun32_concat h.run hx) hd
    | data hx _ _ hless =>
      rw [h.count.variant] at hx
      obtain ⟨tail, hout, hd⟩ := ih (h.count.data (hcnt ▸ hless) hx) hs
      exact ⟨tail, hout, by simpa using hd⟩

/-- B32D after `START` is between groups, with nothing in `OBUF` (10_state.md R50). -/
theorem B32D.cleared_open (p : Port) (cfg : Cfg) : (B32D.cleared (p.onStart cfg)).Open (variantOf cfg) [] [] :=
  ⟨⟨rfl, rfl, rfl, rfl, rfl, rfl⟩, rfl, .zero⟩

/-- A whole text ends well exactly where the rule decodes it. -/
theorem B32D.succeeds_iff (h : u.Open v [] []) :
    (B32D.symbols odd text u).Succeeds odd out ↔ DecodesTo32 odd v text out := by
  rw [decodesTo32_iff]
  constructor
  · intro hs
    obtain ⟨tail, rfl, hd⟩ := h.decoding hs
    exact hd
  · exact fun hd => hd.succeeds h

/-- An `END` that leaves `OK` 0 leaves `OUT` empty, on every unit (10_state.md R36). -/
theorem applyFinish_out_of_not_ok (i : UnitId) (s : State) (h : ((s.applyFinish i).port i).ok = false) :
    ((s.applyFinish i).port i).out = [] := by
  obtain ⟨q, hq, hends⟩ := applyFinish_eq_withPort i s
  rw [hq, withPort_port] at h ⊢
  cases hends with
  | encoder tail => nomatch h
  | success bytes => nomatch h
  | failure => rfl

/-- A Base32 decode operation computes `dec32` (42_base32.md R184 to R186). -/
theorem exec_b32d_decodes {op : List Byte → Instr} (hop : OperationOf op .b32d v) {s : State} (hstart : s.canStart .b32d)
    (hfits : s.params.admits text.length = true) :
    ∃ t, exec (op text) s = .next t ∧ t.b32d.port.st = .done
      ∧ (∀ bytes, (t.b32d.port.ok = true ∧ t.b32d.port.out = bytes) ↔ DecodesTo32 s.params.b32OddCount v text bytes)
      ∧ (t.b32d.port.ok = false → t.b32d.port.out = []) := by
  have hopen : (s.applyStart .b32d (op []).cfg).b32d.Open v [] [] := hop.variant ▸ B32D.cleared_open ..
  have hexec := exec_of_unit (hop.unit text) hstart (by rwa [hop.message])
  rw [hop.cfg, hop.message] at hexec
  refine ⟨_, hexec, (applyFinish_port .b32d _).2.1, fun bytes => ?_, applyFinish_out_of_not_ok .b32d _⟩
  rw [← B32D.succeeds_iff hopen, afterTransaction_b32d]
  rfl

end Registers

/-- Settles O18: both operations compute `dec32`, for their own variant. -/
theorem b32DecodersGiveDec32 : Obligations.B32DecodersGiveDec32 := fun _ _ hstart hfits =>
  ⟨exec_b32d_decodes (b32d_operationOf (.inl ⟨rfl, rfl⟩)) hstart hfits,
    exec_b32d_decodes (b32d_operationOf (.inr ⟨rfl, rfl⟩)) hstart hfits⟩

end Sys2Proof.Machine
end

section
/-! SUPPORT. The event rules of B16E and B16D, register by register (43_base16.md R201, R205, R206), and the Base16 encode
operations (R202, R203). -/

namespace Sys2Proof.Machine

open Sys2Proof

section B16E

variable {i : Instr} {s : State}

/-- The two nibbles of a byte are its two slices (30_encoding.md R103). -/
theorem nibbles_eq_slices (x : Byte) : nibbles x = [x.extractLsb' 4 4, x.extractLsb' 0 4] := by
  simp only [nibbles, ofNat_and_mask (w := 4) (mask := 0x0F) rfl]
  rfl

theorem hexChars_eq_slices (sel : BitVec 1) (x : Byte) :
    hexChars sel x = [e16 sel (x.extractLsb' 4 4), e16 sel (x.extractLsb' 0 4)] := by
  simp [hexChars, nibbles_eq_slices]

/-- The symbols of a message on the registers of B16E, each with the host's count of it. -/
def B16E.symbols (message : List Byte) (u : B16E) : B16E :=
  message.foldl (fun r x => B16E.symbol x { r with port := r.port.count }) u

/-- B16E puts out `enc16` of the symbols behind what `OBUF` held. -/
theorem B16E.symbols_finish_out (message : List Byte) (u : B16E) :
    (B16E.symbols message u).finish.port.out = u.port.obuf ++ enc16 (flagOf u.port.cfg) message := by
  induction message generalizing u with
  | nil => rfl
  | cons x rest ih =>
    rw [B16E.symbols, List.foldl_cons, ← B16E.symbols, ih]
    simp [B16E.symbol, enc16, hexChars]

/-- A Base16 encode operation ends in DONE with `OK` and `enc16` of its message (43_base16.md R202, R203). -/
theorem exec_b16e_done (hu : i.unit = .b16e) (hstart : s.canStart .b16e) (hfits : s.params.admits i.message.length = true)
    {upper : BitVec 1} (hcfg : flagOf i.cfg = upper) :
    ∃ t, exec i s = .next t ∧ t.b16e.port.ok = true ∧ t.b16e.port.st = .done
      ∧ t.b16e.port.out = enc16 upper i.message := by
  refine ⟨_, exec_of_unit hu hstart hfits, rfl, rfl, ?_⟩
  have hreg : (afterTransaction .b16e i.cfg i.message s).b16e = _ :=
    congrArg B16E.finish (applySymbols_b16e i.message (s.applyStart .b16e i.cfg))
  rw [hreg, ← B16E.symbols, B16E.symbols_finish_out, ← hcfg]
  rfl

end B16E

/-- Settles O13: the two digits of a symbol are the entries at its slices, `END` adds no tail, an operation is
`exec_b16e_done`. -/
theorem b16EncoderEventsAndOperations : Obligations.B16EncoderEventsAndOperations := by
  refine ⟨fun s x hrun hfits => ⟨_, present_symbol x hrun hfits, ?_⟩, fun s hrun => ?_,
    fun bytes s hstart hfits => ⟨?_, ?_⟩⟩
  · rw [← hexChars_eq_slices]
    rfl
  · have hout : (s.applyFinish .b16e).b16e.port.out = s.b16e.port.obuf := List.append_nil _
    exact ⟨_, present_finish hrun, hout, congrArg List.length hout, rfl, rfl⟩
  · exact exec_b16e_done (i := .b16encLower bytes) rfl hstart hfits (by decide : flagOf 0b00 = 0)
  · exact exec_b16e_done (i := .b16encUpper bytes) rfl hstart hfits (by decide : flagOf 0b10 = 1)

section Digits

variable {x : Byte}

/-- A Base16 digit fits a nibble (20_memory.md R71). -/
theorem toNat_setWidth_d16 (h : d16 x ≠ sentinel) : ((d16 x).setWidth 4).toNat = (d16 x).toNat := by
  revert x
  decide

/-- Whitespace is no Base16 digit (20_memory.md R74). -/
theorem not_ws_of_d16_ne (h : d16 x ≠ sentinel) : isWs x = false := by
  revert x
  decide

/-- `x` and `X` are in no Base16 alphabet (43_base16.md R205). -/
theorem d16_prefixLetter (h : x = 0x78 ∨ x = 0x58) : d16 x = sentinel := by
  rcases h with rfl | rfl <;> rfl

end Digits

section B16D

/-! One equation per arm of 43_base16.md R205 and R206. What every arm does first is `B16D.advance`. -/

variable {u : B16D} {x : Byte}

theorem B16D.endsPrefix_iff :
    u.endsPrefix x = true ↔ u.pos.toNat = 1 ∧ u.first0 = true ∧ (x = 0x78 ∨ x = 0x58) := by
  simp [B16D.endsPrefix, ← BitVec.toNat_inj, and_assoc]

@[simp] theorem B16D.advance_fail (x : Byte) (u : B16D) : (u.advance x).fail = u.fail := rfl

@[simp] theorem B16D.advance_haveHi (x : Byte) (u : B16D) : (u.advance x).haveHi = u.haveHi := rfl

@[simp] theorem B16D.advance_hi (x : Byte) (u : B16D) : (u.advance x).hi = u.hi := rfl

@[simp] theorem B16D.advance_port (x : Byte) (u : B16D) : (u.advance x).port = u.port := rfl

theorem B16D.advance_pos_toNat (x : Byte) (u : B16D) : (u.advance x).pos.toNat = min (u.pos.toNat + 1) 2 := by
  change (BitVec.ofNat 2 _).toNat = _
  rw [BitVec.toNat_ofNat]
  omega

theorem B16D.advance_first0_at_zero (h : u.pos.toNat = 0) : (u.advance x).first0 = (x == 0x30) :=
  if_pos (BitVec.eq_of_toNat_eq h)

theorem B16D.advance_first0_later (h : u.pos.toNat ≠ 0) : (u.advance x).first0 = u.first0 :=
  if_neg fun hpos => h (congrArg BitVec.toNat hpos)

theorem B16D.symbol_of_failed (h : u.fail = true) : B16D.symbol x u = u.advance x := if_pos h

section Symbol

variable (hfail : u.fail = false)
include hfail

theorem B16D.symbol_endsPrefix (h : u.endsPrefix x = true) :
    B16D.symbol x u = { u.advance x with haveHi := false, hi := 0 } := by
  simp [B16D.symbol, hfail, h]

variable (hprefix : u.endsPrefix x = false)
include hprefix

theorem B16D.symbol_whitespace (hws : isWs x = true) : B16D.symbol x u = u.advance x := by
  simp [B16D.symbol, hfail, hprefix, hws]

theorem B16D.symbol_foreign (hws : isWs x = false) (hx : d16 x = sentinel) :
    B16D.symbol x u = { u.advance x with fail := true } := by
  simp [B16D.symbol, B16D.raise, hfail, hprefix, hws, hx]

variable (hx : d16 x ≠ sentinel)
include hx

theorem B16D.symbol_lowDigit (hheld : u.haveHi = true) :
    B16D.symbol x u =
      { u.advance x with
        port := u.port.append [joinNibbles u.hi ((d16 x).setWidth 4)]
        haveHi := false } := by
  simp [B16D.symbol, hfail, hprefix, not_ws_of_d16_ne hx, hx, hheld]

theorem B16D.symbol_highDigit (hheld : u.haveHi = false) :
    B16D.symbol x u = { u.advance x with hi := (d16 x).setWidth 4, haveHi := true } := by
  simp [B16D.symbol, hfail, hprefix, not_ws_of_d16_ne hx, hx, hheld]

end Symbol

theorem B16D.finish_failed (h : u.fail = true ∨ u.haveHi = true) : u.finish = { u with port := u.port.failAtEnd } :=
  if_pos (by simpa using h)

theorem B16D.finish_commits (hfail : u.fail = false) (hheld : u.haveHi = false) :
    u.finish = { u with port := u.port.succeed u.port.obuf } :=
  if_neg (by simp [hfail, hheld])

/-- `END` commits from `OBUF` and leaves it as it was (log entry 11). -/
theorem B16D.finish_obuf (u : B16D) : u.finish.port.obuf = u.port.obuf := by
  unfold B16D.finish
  split_ifs <;> rfl

end B16D

/-- Settles O16: the arms one by one, in the rule's order, on the registers as `B16D.advance` leaves them. -/
theorem b16DecoderEvents : Obligations.B16DecoderEvents := by
  refine ⟨fun s x hrun hfits => ?_, d16_prefixLetter (.inl rfl), d16_prefixLetter (.inr rfl), fun s hrun => ?_⟩
  · intro endsPrefix
    obtain ⟨v, hv⟩ : ∃ v : B16D, v = { s.b16d with port := s.b16d.port.count } := ⟨_, rfl⟩
    have hsent : (s.applySymbol .b16d x).b16d.port.sent = s.b16d.port.sent + 1 := applySymbol_sent .b16d x s
    have hends : endsPrefix ↔ v.endsPrefix x = true := by rw [B16D.endsPrefix_iff, hv]
    have ht : (s.applySymbol .b16d x).b16d = B16D.symbol x v := by rw [hv]; rfl
    refine ⟨s.applySymbol .b16d x, (v.advance x).pos, (v.advance x).first0, present_symbol x hrun hfits,
      hv ▸ B16D.advance_pos_toNat x v, fun h => ?_, fun h => ?_, ?_⟩
    · rw [B16D.advance_first0_at_zero (hv ▸ h), beq_iff_eq]
    · rw [B16D.advance_first0_later (hv ▸ h), hv]
    · intro u
      have hu : u = v.advance x := by simp only [u, hsent, hv]; rfl
      rw [ht, hu, hends, Bool.not_eq_true, B16D.advance_fail, B16D.advance_haveHi]
      refine ⟨B16D.symbol_of_failed, B16D.symbol_endsPrefix, B16D.symbol_whitespace, fun hfail hno hws => ?_⟩
      refine ⟨B16D.symbol_foreign hfail hno hws, fun hx hheld => ?_, B16D.symbol_highDigit hfail hno⟩
      rw [B16D.symbol_lowDigit hfail hno hx hheld, joinNibbles, toNat_setWidth_d16 hx]
      rfl
  · intro u
    have hobuf : (s.applyFinish .b16d).b16d.port.obuf = s.b16d.port.obuf := s.b16d.finish_obuf
    refine ⟨s.applyFinish .b16d, present_finish hrun, rfl, ?_⟩
    rw [hobuf]
    exact ⟨B16D.finish_failed, B16D.finish_commits⟩

end Sys2Proof.Machine
end

section
/-! SUPPORT. B16D against `dec16` (43_base16.md R208): where a leading `0x` ends, and what the symbols after it give. -/

namespace Sys2Proof.Machine

open Sys2Proof

section Symbols

variable {a b x : Byte} {ds text : List Byte}

/-- The last three lines of R208, on the symbols that are left: the bytes where all of them are digits and their number is
even. -/
def joinDigits16 (ds : List Byte) : Option (List Byte) :=
  if ds.any (fun c => d16 c == sentinel) then none
  else if ds.length % 2 = 1 then none
  else some (joinPairs16 ds)

theorem dec16_eq_joinDigits16 (text : List Byte) : dec16 text = joinDigits16 (hexSymbols text) := rfl

theorem joinDigits16_foreign (hc : ∃ c ∈ ds, d16 c = sentinel) : joinDigits16 ds = none :=
  if_pos (by simpa using hc)

theorem joinDigits16_nil : joinDigits16 [] = some [] := rfl

/-- One digit alone is an odd number of them. -/
theorem joinDigits16_singleton (a : Byte) : joinDigits16 [a] = none := by
  simp [joinDigits16]

theorem joinDigits16_pair (ha : d16 a ≠ sentinel) (hb : d16 b ≠ sentinel) :
    joinDigits16 (a :: b :: ds) =
      (joinDigits16 ds).map (joinNibbles ((d16 a).setWidth 4) ((d16 b).setWidth 4) :: ·) := by
  unfold joinDigits16
  simp only [List.any_cons, beq_eq_false_iff_ne.2 ha, beq_eq_false_iff_ne.2 hb, Bool.false_or, List.length_cons,
    Nat.add_assoc, Nat.add_mod_right]
  split_ifs <;> rfl

theorem hexSymbols_of_prefix (hp : hasPrefix16 text = true) : hexSymbols text = (text.drop 2).filter fun c => !isWs c := by
  rw [hexSymbols, if_pos hp]

theorem hexSymbols_of_no_prefix (hp : hasPrefix16 text = false) : hexSymbols text = text.filter fun c => !isWs c := by
  simp [hexSymbols, hp]

theorem hasPrefix16_cons (hx : x = 0x78 ∨ x = 0x58) (rest : List Byte) : hasPrefix16 (0x30 :: x :: rest) = true := by
  simpa [hasPrefix16] using hx

theorem exists_of_hasPrefix16 (hp : hasPrefix16 text = true) :
    ∃ x rest, (x = 0x78 ∨ x = 0x58) ∧ text = 0x30 :: x :: rest := by
  match text with
  | [] => nomatch hp
  | [_] => nomatch hp
  | a :: x :: rest =>
    simp only [hasPrefix16, Bool.and_eq_true, Bool.or_eq_true, beq_iff_eq] at hp
    obtain ⟨rfl, hx⟩ := hp
    exact ⟨x, rest, hx, rfl⟩

end Symbols

section Registers

variable {u : B16D} {a x : Byte} {bytes held text : List Byte}

/-- The symbols of a text on the registers of B16D, each with the host's count of it. -/
def B16D.symbols (text : List Byte) (u : B16D) : B16D :=
  text.foldl (fun r x => B16D.symbol x { r with port := r.port.count }) u

@[simp] theorem B16D.symbols_nil (u : B16D) : B16D.symbols [] u = u := rfl

@[simp] theorem B16D.symbols_cons (x : Byte) (rest : List Byte) (u : B16D) :
    B16D.symbols (x :: rest) u = B16D.symbols rest (B16D.symbol x { u with port := u.port.count }) := rfl

/-- What `END` commits now, if it commits anything (43_base16.md R206). -/
def B16D.result (u : B16D) : Option (List Byte) := if u.fail || u.haveHi then none else some u.port.obuf

theorem B16D.result_of_failed (hfail : u.fail = true) : u.result = none := by
  simp [B16D.result, hfail]

theorem B16D.finish_ok (u : B16D) : u.finish.port.ok = u.result.isSome := by
  unfold B16D.finish B16D.result
  split_ifs <;> rfl

theorem B16D.finish_out (u : B16D) : u.finish.port.out = u.result.getD [] := by
  unfold B16D.finish B16D.result
  split_ifs <;> rfl

/-- A failure stays until `END` (60_exceptions.md R255). -/
theorem B16D.symbols_fail (text : List Byte) (hfail : u.fail = true) : (B16D.symbols text u).fail = true := by
  induction text generalizing u with
  | nil => exact hfail
  | cons x rest ih =>
    rw [B16D.symbols_cons, B16D.symbol_of_failed (u := { u with port := u.port.count }) hfail]
    exact ih hfail

/-- The text from here on completes a leading `0x`: both its symbols are still to come, or the second one. -/
def B16D.CompletesPrefix (text : List Byte) (u : B16D) : Prop :=
  u.pos.toNat = 0 ∧ hasPrefix16 text = true ∨ ∃ x rest, text = x :: rest ∧ u.endsPrefix x = true

theorem B16D.not_completesPrefix_of_later (hpos : 2 ≤ u.pos.toNat) : ¬ u.CompletesPrefix text := by
  rintro (⟨hzero, -⟩ | ⟨x, rest, -, hends⟩)
  · omega
  · have := (B16D.endsPrefix_iff.1 hends).1
    omega

/-- Every `SYMBOL` moves `POS` and `FIRST0` on as `B16D.advance` does, whatever its arm (43_base16.md R205). -/
theorem B16D.symbol_position (x : Byte) (u : B16D) :
    (B16D.symbol x u).pos = (u.advance x).pos ∧ (B16D.symbol x u).first0 = (u.advance x).first0 := by
  unfold B16D.symbol
  split_ifs <;> exact ⟨rfl, rfl⟩

/-- A text that completes no leading `0x` completes none after its first symbol. -/
theorem B16D.not_completesPrefix_tail (h : ¬ u.CompletesPrefix (x :: text)) :
    ¬ (B16D.symbol x u).CompletesPrefix text := by
  obtain ⟨hpos, hfirst0⟩ := B16D.symbol_position x u
  have hnext : (B16D.symbol x u).pos.toNat = min (u.pos.toNat + 1) 2 := by rw [hpos, B16D.advance_pos_toNat]
  rintro (⟨hzero, -⟩ | ⟨y, rest, rfl, hends⟩)
  · omega
  · obtain ⟨hone, hfirst, hy⟩ := B16D.endsPrefix_iff.1 hends
    have hstart : u.pos.toNat = 0 := by omega
    rw [hfirst0, B16D.advance_first0_at_zero hstart, beq_iff_eq] at hfirst
    exact h (.inl ⟨hstart, hfirst ▸ hasPrefix16_cons hy rest⟩)

/-- B16D in a text that has not failed: `bytes` in `OBUF`, and the digit `held` in `HI` if the number of digits is odd. -/
inductive B16D.Reading (bytes : List Byte) : List Byte → B16D → Prop where
  | even {u : B16D} (hfail : u.fail = false) (hobuf : u.port.obuf = bytes) (hheld : u.haveHi = false) :
    B16D.Reading bytes [] u
  | odd {u : B16D} {a : Byte} (hfail : u.fail = false) (hobuf : u.port.obuf = bytes) (hheld : u.haveHi = true)
    (ha : d16 a ≠ sentinel) (hhi : u.hi = (d16 a).setWidth 4) : B16D.Reading bytes [a] u

theorem B16D.Reading.not_failed (h : u.Reading bytes held) : u.fail = false := by
  cases h <;> assumption

theorem B16D.Reading.count (h : u.Reading bytes held) : { u with port := u.port.count }.Reading bytes held := by
  cases h with
  | even hfail hobuf hheld => exact .even hfail hobuf hheld
  | odd hfail hobuf hheld ha hhi => exact .odd hfail hobuf hheld ha hhi

theorem B16D.Reading.whitespace (h : u.Reading bytes held) (hprefix : u.endsPrefix x = false) (hws : isWs x = true) :
    (B16D.symbol x u).Reading bytes held := by
  rw [B16D.symbol_whitespace h.not_failed hprefix hws]
  cases h with
  | even hfail hobuf hheld => exact .even hfail hobuf hheld
  | odd hfail hobuf hheld ha hhi => exact .odd hfail hobuf hheld ha hhi

theorem B16D.Reading.highDigit (h : u.Reading bytes []) (hprefix : u.endsPrefix x = false) (hx : d16 x ≠ sentinel) :
    (B16D.symbol x u).Reading bytes [x] := by
  obtain ⟨hfail, hobuf, hheld⟩ := h
  rw [B16D.symbol_highDigit hfail hprefix hx hheld]
  exact .odd hfail hobuf rfl hx rfl

theorem B16D.Reading.lowDigit (h : u.Reading bytes [a]) (hprefix : u.endsPrefix x = false) (hx : d16 x ≠ sentinel) :
    (B16D.symbol x u).Reading (bytes ++ [joinNibbles ((d16 a).setWidth 4) ((d16 x).setWidth 4)]) [] := by
  cases h with
  | odd hfail hobuf hheld ha hhi =>
    rw [B16D.symbol_lowDigit hfail hprefix hx hheld]
    exact .even hfail (by rw [append_obuf, hobuf, hhi]) rfl

/-- `END` here fails for the digit held, if there is one (43_base16.md R206). -/
theorem B16D.Reading.result (h : u.Reading bytes held) : u.result = (joinDigits16 held).map (bytes ++ ·) := by
  cases h with
  | even hfail hobuf hheld => simp [B16D.result, joinDigits16_nil, hfail, hheld, hobuf]
  | odd hfail hobuf hheld ha hhi => simp [B16D.result, joinDigits16_singleton, hheld]

/-- From here on, with no leading `0x` to complete, B16D gives what the digit held and the symbols that are no whitespace
give. -/
theorem B16D.Reading.symbols_result (h : u.Reading bytes held) (hprefix : ¬ u.CompletesPrefix text) :
    (B16D.symbols text u).result =
      (joinDigits16 (held ++ text.filter fun c => !isWs c)).map (bytes ++ ·) := by
  induction text generalizing u bytes held with
  | nil => simpa using h.result
  | cons x rest ih =>
    have hrest := B16D.not_completesPrefix_tail (u := { u with port := u.port.count }) hprefix
    have hends : B16D.endsPrefix x { u with port := u.port.count } = false :=
      Bool.eq_false_iff.2 fun hends => hprefix (.inr ⟨x, rest, rfl, hends⟩)
    have hu := h.count
    rw [B16D.symbols_cons]
    by_cases hws : isWs x = true
    · rw [ih (hu.whitespace hends hws) hrest, List.filter_cons_of_neg (by simp [hws])]
    rw [Bool.not_eq_true] at hws
    rw [List.filter_cons_of_pos (by simp [hws])]
    by_cases hx : d16 x = sentinel
    · rw [B16D.symbol_foreign hu.not_failed hends hws hx, joinDigits16_foreign ⟨x, by simp, hx⟩]
      exact B16D.result_of_failed (B16D.symbols_fail rest rfl)
    cases h with
    | even => rw [ih (hu.highDigit hends hx) hrest, List.nil_append, List.singleton_append]
    | odd _ _ _ ha =>
      rw [ih (hu.lowDigit hends hx) hrest, List.nil_append, List.singleton_append, joinDigits16_pair ha hx,
        Option.map_map]
      simp [Function.comp_def]

/-- The two symbols of a leading `0x` leave B16D as `START` does, but for where it stands in the text (43_base16.md R205 arm 2). -/
theorem B16D.cleared_prefix (p : Port) (hx : x = 0x78 ∨ x = 0x58) (hobuf : p.obuf = []) :
    (B16D.symbols [0x30, x] (B16D.cleared p)).Reading [] [] ∧ (B16D.symbols [0x30, x] (B16D.cleared p)).pos = 2 := by
  rcases hx with rfl | rfl <;> exact ⟨.even rfl hobuf rfl, rfl⟩

/-- B16D gives `dec16` of a whole text. -/
theorem B16D.symbols_cleared_result (p : Port) (cfg : Cfg) (text : List Byte) :
    (B16D.symbols text (B16D.cleared (p.onStart cfg))).result = dec16 text := by
  rw [dec16_eq_joinDigits16]
  cases hp : hasPrefix16 text with
  | true =>
    obtain ⟨x, rest, hx, rfl⟩ := exists_of_hasPrefix16 hp
    obtain ⟨hreading, hpos⟩ := B16D.cleared_prefix (p.onStart cfg) hx rfl
    have hlater : 2 ≤ (B16D.symbols [0x30, x] (B16D.cleared (p.onStart cfg))).pos.toNat := by rw [hpos]; decide
    rw [hexSymbols_of_prefix hp]
    exact (hreading.symbols_result (B16D.not_completesPrefix_of_later hlater)).trans (by simp)
  | false =>
    have hreading : (B16D.cleared (p.onStart cfg)).Reading [] [] := .even rfl rfl rfl
    have hprefix : ¬ (B16D.cleared (p.onStart cfg)).CompletesPrefix text := by
      rintro (⟨-, htrue⟩ | ⟨x, rest, rfl, hends⟩)
      · simp [hp] at htrue
      · nomatch hends
    rw [hexSymbols_of_no_prefix hp]
    exact (hreading.symbols_result hprefix).trans (by simp)

end Registers

section Operation

variable {text : List Byte} {s : State}

/-- `B16DEC` completes with `dec16` of its text (43_base16.md R207, R208). -/
theorem exec_b16dec (hstart : s.canStart .b16d) (hfits : s.params.admits text.length = true) :
    ∃ t, exec (.b16dec text) s = .next t ∧ t.b16d.port.st = .done
      ∧ t.b16d.port.ok = (dec16 text).isSome ∧ t.b16d.port.out = (dec16 text).getD [] := by
  refine ⟨_, exec_of_unit rfl hstart hfits, (applyFinish_port .b16d _).2.1, ?_⟩
  have hreg : (afterTransaction .b16d (Instr.b16dec text).cfg text s).b16d = _ :=
    congrArg B16D.finish (applySymbols_b16d text (s.applyStart .b16d (Instr.b16dec text).cfg))
  rw [← B16D.symbols_cleared_result s.b16d.port (Instr.b16dec text).cfg text, ← B16D.finish_ok, ← B16D.finish_out]
  exact ⟨congrArg (·.port.ok) hreg, congrArg (·.port.out) hreg⟩

/-- An `x` or `X` beyond a leading `0x` or `0X` is no digit (43_base16.md R209). -/
theorem dec16_of_prefixLetter
    (h : ∃ c ∈ (if hasPrefix16 text then text.drop 2 else text), c = 0x78 ∨ c = 0x58) : dec16 text = none := by
  obtain ⟨c, hmem, hc⟩ := h
  have hws : isWs c = false := by rcases hc with rfl | rfl <;> rfl
  exact joinDigits16_foreign ⟨c, List.mem_filter.2 ⟨hmem, by simp [hws]⟩, d16_prefixLetter hc⟩

/-- A `0x` or `0X` before a text without one is dropped (43_base16.md R209). -/
theorem dec16_prefix {x : Byte} (hx : x = 0x78 ∨ x = 0x58) (hp : hasPrefix16 text = false) :
    dec16 (0x30 :: x :: text) = dec16 text := by
  rw [dec16_eq_joinDigits16, dec16_eq_joinDigits16, hexSymbols_of_prefix (hasPrefix16_cons hx text),
    hexSymbols_of_no_prefix hp]
  rfl

end Operation

/-- Settles O19: `B16DEC` ends with `dec16` of its text, and where that is nothing `OUT` is empty. -/
theorem b16DecoderGivesDec16 : Obligations.B16DecoderGivesDec16 := by
  intro text s hstart hfits
  obtain ⟨t, ht, hst, hok, hout⟩ := exec_b16dec hstart hfits
  refine ⟨t, ht, hst, fun bytes hdec => ?_, fun hdec => ?_⟩
  · simp [hok, hout, hdec]
  · simp [hok, hout, hdec]

/-- Settles O46: what `dec16` does with a left-over `x` and with a leading `0x`. -/
theorem base16PrefixExactly : Obligations.Base16PrefixExactly := by
  intro text s hstart hfits
  obtain ⟨t, ht, -, hok, hout⟩ := exec_b16dec hstart (admits_mono (Nat.le_add_right text.length 2) hfits)
  refine ⟨⟨t, ht, fun h => by simp [hok, dec16_of_prefixLetter h]⟩, fun x hx hp => ?_⟩
  obtain ⟨t', ht', -, hok', hout'⟩ := exec_b16dec (text := 0x30 :: x :: text) hstart hfits
  rw [dec16_prefix hx hp] at hok' hout'
  exact ⟨t, t', ht, ht', hok'.trans hok.symm, hout'.trans hout.symm⟩

end Sys2Proof.Machine
end

section
/-! SUPPORT. The length laws `State.LengthsHold` (44_validation_and_laws.md R230), unit by unit: what a `SYMBOL` and an `END` keep of
them. -/

namespace Sys2Proof.Machine

open Sys2Proof

section Groups

/-- A Base64 group of `k` data characters gives at most three bytes for four of them (30_encoding.md R105). -/
theorem four_mul_unpack64_length_le (v1 v2 v3 v4 : Digit64) {k : Nat} (hk : 2 ≤ k) :
    4 * (unpack64 v1 v2 v3 v4 k).length ≤ 3 * k := by
  simp only [unpack64]
  split_ifs <;> simp <;> omega

/-- A Base32 group of `k` data characters gives at most five bytes for eight of them (30_encoding.md R109). -/
theorem eight_mul_unpack32_length_le (c1 c2 c3 c4 c5 c6 c7 c8 : Digit32) (k : Nat) :
    8 * (unpack32 c1 c2 c3 c4 c5 c6 c7 c8 k).length ≤ 5 * k := by
  simp only [unpack32]
  split_ifs <;> simp <;> omega

theorem dataChars32_eq {r : Nat} (hr : r ≤ 5) : dataChars32 r = (8 * r + 4) / 5 := by
  interval_cases r <;> rfl

/-- What `END` adds is what the law wants for the bytes of the short group (41_base64.md R142). -/
theorem B64E.tail_length {u : B64E} (hcnt : u.cnt.toNat ≤ 2) : u.tail.length =
    if flagOf u.port.cfg = 1 then 4 * ((u.cnt.toNat + 2) / 3) else (4 * u.cnt.toNat + 2) / 3 := by
  obtain h | h | h : u.cnt.toNat = 0 ∨ u.cnt.toNat = 1 ∨ u.cnt.toNat = 2 := by omega
  · simp [B64E.tail_zero h, h]
  · rw [B64E.tail_one h, h]
    split_ifs <;> rfl
  · rw [B64E.tail_two h, h]
    split_ifs <;> rfl

/-- The same for B32E (42_base32.md R172). -/
theorem B32E.tail_length {u : B32E} (hcnt : u.cnt.toNat ≤ 4) : u.tail.length =
    if flagOf u.port.cfg = 1 then 8 * ((u.cnt.toNat + 4) / 5) else (8 * u.cnt.toNat + 4) / 5 := by
  unfold B32E.tail
  rw [dataChars32_eq (by omega)]
  split_ifs <;> simp [pack32_length] <;> omega

end Groups

section Within

/-! The laws in the middle of a transaction of `n` symbols, and what one more symbol does to them. -/

variable (x : Byte) {n : Nat}

/-- Of `n` symbols B64E has packed the full groups and holds the rest. -/
def B64E.Within (n : Nat) (u : B64E) : Prop := u.cnt.toNat = n % 3 ∧ u.port.obuf.length = 4 * (n / 3)

/-- Of `n` symbols B32E has packed the full groups and holds the rest. -/
def B32E.Within (n : Nat) (u : B32E) : Prop := u.cnt.toNat = n % 5 ∧ u.port.obuf.length = 8 * (n / 5)

/-- Of `n` symbols those that B64D has not unpacked are enough for the group it is in. -/
def B64D.Within (n : Nat) (u : B64D) : Prop := 4 * u.port.obuf.length + 3 * (u.cnt.toNat + u.padcnt.toNat) ≤ 3 * n

/-- Of `n` symbols those that B32D has not unpacked are enough for the group it is in. -/
def B32D.Within (n : Nat) (u : B32D) : Prop := 8 * u.port.obuf.length + 5 * (u.cnt.toNat + u.padcnt.toNat) ≤ 5 * n

/-- Of `n` symbols those that B16D has not joined are enough for the digit it holds. -/
def B16D.Within (n : Nat) (u : B16D) : Prop := 2 * u.port.obuf.length + (if u.haveHi = true then 1 else 0) ≤ n

theorem B64E.symbol_within {u : B64E} (h : u.Within n) : (B64E.symbol x u).Within (n + 1) := by
  obtain ⟨hcnt, hobuf⟩ := h
  unfold B64E.symbol
  split_ifs with hlt
  · exact ⟨by simp only; bv_omega, by simp only; omega⟩
  · exact ⟨by simp; omega, by simp [pack64_length]; omega⟩

theorem B32E.symbol_within {u : B32E} (h : u.Within n) : (B32E.symbol x u).Within (n + 1) := by
  obtain ⟨hcnt, hobuf⟩ := h
  unfold B32E.symbol
  split_ifs with hlt
  · exact ⟨by simp only; bv_omega, by simp only; omega⟩
  · exact ⟨by simp; omega, by simp [pack32_length]; omega⟩

/-- Only a completed group adds bytes, and it had more data characters than they account for (41_base64.md R151). -/
theorem B64D.symbol_within {u : B64D} (h : u.Within n) : (B64D.symbol x u).Within (n + 1) := by
  have same : u.Within (n + 1) := h.trans (by omega)
  unfold B64D.symbol
  split_ifs with _ _ _ _ _ hearly _ _ _ hcnt
  any_goals exact same
  all_goals
    unfold B64D.Within at h ⊢
    simp only [append_obuf, List.length_append]
  · have hbytes := four_mul_unpack64_length_le u.v[0] u.v[1] u.v[2] u.v[3] (Nat.not_lt.1 hearly)
    bv_omega
  · bv_omega
  · have hbytes := four_mul_unpack64_length_le u.v[0] u.v[1] u.v[2]
      ((d64 (variantOf u.port.cfg) x).setWidth 6) (k := 4) (by decide)
    bv_omega
  · bv_omega

/-- The same for B32D; a group with fewer usable characters gives no more bytes (42_base32.md R181). -/
theorem B32D.symbol_within (odd : OddCount) {u : B32D} (h : u.Within n) : (B32D.symbol odd x u).Within (n + 1) := by
  have same : u.Within (n + 1) := h.trans (by omega)
  unfold B32D.symbol
  split_ifs with _ _ _ _ _ _ _ _ _ hcnt
  any_goals exact same
  any_goals
    cases hk : usable32 odd u.cnt.toNat
    any_goals exact same
  all_goals
    unfold B32D.Within at h ⊢
    simp only [append_obuf, List.length_append]
  · next k =>
    have hbytes := eight_mul_unpack32_length_le u.c[0] u.c[1] u.c[2] u.c[3] u.c[4] u.c[5] u.c[6] u.c[7] k
    have hle := usable32_le hk
    rw [B32D.unpack]
    bv_omega
  · bv_omega
  · have hbytes := eight_mul_unpack32_length_le u.c[0] u.c[1] u.c[2] u.c[3] u.c[4] u.c[5] u.c[6]
      ((d32 (variantOf u.port.cfg) x).setWidth 5) 8
    bv_omega
  · bv_omega

/-- A byte is joined from the digit held and one more (43_base16.md R205). -/
theorem B16D.symbol_within {u : B16D} (h : u.Within n) : (B16D.symbol x u).Within (n + 1) := by
  have same : u.Within (n + 1) := h.trans (by omega)
  unfold B16D.symbol
  split_ifs with _ _ _ _ hheld
  any_goals exact same
  all_goals
    unfold B16D.Within at h ⊢
    simp only [append_obuf, B16D.advance_port, List.length_append, List.length_singleton, if_true]
  · simp only [Bool.false_eq_true, if_false]
    omega
  · simp only [hheld, Bool.false_eq_true, if_true, if_false] at h ⊢
    omega
  · simp only [hheld] at h
    omega

end Within

section Finish

variable {n : Nat}

theorem B64E.finish_length {u : B64E} (h : u.Within u.port.sent) : u.finish.port.out.length =
    if flagOf u.port.cfg = 1 then 4 * ((u.port.sent + 2) / 3) else (4 * u.port.sent + 2) / 3 := by
  obtain ⟨hcnt, hobuf⟩ := h
  rw [B64E.finish_out, List.length_append, hobuf, B64E.tail_length (by omega), hcnt]
  split_ifs <;> omega

theorem B32E.finish_length {u : B32E} (h : u.Within u.port.sent) : u.finish.port.out.length =
    if flagOf u.port.cfg = 1 then 8 * ((u.port.sent + 4) / 5) else (8 * u.port.sent + 4) / 5 := by
  obtain ⟨hcnt, hobuf⟩ := h
  rw [B32E.finish_out, List.length_append, hobuf, B32E.tail_length (by omega), hcnt]
  split_ifs <;> omega

/-- `END` can add the bytes of an unpadded short group, which its symbols account for (41_base64.md R153). -/
theorem B64D.finish_length_le {u : B64D} (h : u.Within n) : u.finish.port.out.length ≤ 3 * n / 4 := by
  unfold B64D.Within at h
  cases hok : u.finish.port.ok with
  | false =>
    rw [B64D.finish_out_of_not_ok u hok]
    exact Nat.zero_le _
  | true =>
    obtain ⟨-, ⟨-, hout⟩ | ⟨-, hcnt, hout⟩⟩ := B64D.Succeeds.at_end ⟨hok, rfl⟩
    · rw [hout]
      omega
    · have hbytes := four_mul_unpack64_length_le u.v[0] u.v[1] u.v[2] u.v[3] (k := u.cnt.toNat) (by omega)
      rw [hout, List.length_append]
      omega

/-- The same for B32D (42_base32.md R183). -/
theorem B32D.finish_length_le (odd : OddCount) {u : B32D} (h : u.Within n) :
    (u.finish odd).port.out.length ≤ 5 * n / 8 := by
  unfold B32D.Within at h
  unfold B32D.finish
  split_ifs
  · exact Nat.zero_le _
  · exact Nat.zero_le _
  · simp only [succeed_out]
    omega
  · cases hk : usable32 odd u.cnt.toNat with
    | none => exact Nat.zero_le _
    | some k =>
      have hbytes := eight_mul_unpack32_length_le u.c[0] u.c[1] u.c[2] u.c[3] u.c[4] u.c[5] u.c[6] u.c[7] k
      have hle := usable32_le hk
      simp only [succeed_out, List.length_append, B32D.unpack]
      omega

theorem B16D.finish_length_le {u : B16D} (h : u.Within n) : u.finish.port.out.length ≤ n / 2 := by
  unfold B16D.Within at h
  unfold B16D.finish
  split_ifs
  · exact Nat.zero_le _
  · simp only [succeed_out]
    omega

end Finish

section Registers

variable {u : UnitId} {s : State}

/-- The length law of one unit. -/
def State.UnitLengthsHold (u : UnitId) (s : State) : Prop :=
  match u with
  | .b64e => s.b64e.LengthsHold
  | .b64d => s.b64d.LengthsHold
  | .b32e => s.b32e.LengthsHold
  | .b32d => s.b32d.LengthsHold
  | .b16e => s.b16e.LengthsHold
  | .b16d => s.b16d.LengthsHold

theorem lengthsHold_iff : s.LengthsHold ↔ ∀ u, (s.port u).wasReset = true → s.UnitLengthsHold u := by
  constructor
  · rintro ⟨h1, h2, h3, h4, h5, h6⟩ u
    cases u with
    | b64e => exact h1
    | b64d => exact h2
    | b32e => exact h3
    | b32d => exact h4
    | b16e => exact h5
    | b16d => exact h6
  · exact fun h => ⟨h .b64e, h .b64d, h .b32e, h .b32d, h .b16e, h .b16d⟩

/-- The length law of a unit speaks of its registers only. -/
theorem unitLengthsHold_congr {t : State} (hf : s.file u = t.file u) : s.UnitLengthsHold u ↔ t.UnitLengthsHold u := by
  cases u <;> simp_all [State.UnitLengthsHold, State.file]

/-- After `RESET` or `START` nothing was sent and nothing is held (10_state.md R50). -/
theorem unitLengthsHold_of_cleared {q : Port} (hfile : s.file u = zeroFile u q) (hst : q.st ≠ .done)
    (hobuf : q.obuf = []) (hsent : q.sent = 0) : s.UnitLengthsHold u := by
  cases u <;>
    simp_all [State.file, zeroFile, State.UnitLengthsHold, B64E.LengthsHold, B64D.LengthsHold, B32E.LengthsHold,
      B32D.LengthsHold, B16E.LengthsHold, B16D.LengthsHold]

theorem applySymbol_unitLengthsHold (x : Byte) (hrun : (s.port u).st = .run) (h : s.UnitLengthsHold u) :
    (s.applySymbol u x).UnitLengthsHold u := by
  have hst : (s.port u).st ≠ .done := by simp [hrun]
  have hnot : ((s.applySymbol u x).port u).st ≠ .done := by rwa [applySymbol_st]
  have hsent := applySymbol_sent u x s
  cases u with
  | b64e =>
    refine ⟨fun _ => ?_, fun hdone => absurd hdone hnot⟩
    exact hsent ▸ B64E.symbol_within x (u := { s.b64e with port := s.b64e.port.count }) (h.1 hst)
  | b64d =>
    refine ⟨fun _ => ?_, fun hdone => absurd hdone hnot⟩
    exact hsent ▸ B64D.symbol_within x (u := { s.b64d with port := s.b64d.port.count }) (h.1 hst)
  | b32e =>
    refine ⟨fun _ => ?_, fun hdone => absurd hdone hnot⟩
    exact hsent ▸ B32E.symbol_within x (u := { s.b32e with port := s.b32e.port.count }) (h.1 hst)
  | b32d =>
    refine ⟨fun _ => ?_, fun hdone => absurd hdone hnot⟩
    exact hsent ▸ B32D.symbol_within x _ (u := { s.b32d with port := s.b32d.port.count }) (h.1 hst)
  | b16e =>
    refine ⟨fun _ => ?_, fun hdone => absurd hdone hnot⟩
    have hobuf := h.1 hst
    simp [State.applySymbol, B16E.symbol, hexChars, nibbles]
    omega
  | b16d =>
    refine ⟨fun _ => ?_, fun hdone => absurd hdone hnot⟩
    exact hsent ▸ B16D.symbol_within x (u := { s.b16d with port := s.b16d.port.count }) (h.1 hst)

theorem applyFinish_unitLengthsHold (hrun : (s.port u).st = .run) (h : s.UnitLengthsHold u) :
    (s.applyFinish u).UnitLengthsHold u := by
  have hst : (s.port u).st ≠ .done := by simp [hrun]
  obtain ⟨-, hdone, -, hsent⟩ := applyFinish_port u s
  cases u with
  | b64e => exact ⟨fun hnot => absurd hdone hnot, fun _ => B64E.finish_length (h.1 hst)⟩
  | b64d => exact ⟨fun hnot => absurd hdone hnot, fun _ => hsent ▸ B64D.finish_length_le (h.1 hst)⟩
  | b32e => exact ⟨fun hnot => absurd hdone hnot, fun _ => B32E.finish_length (h.1 hst)⟩
  | b32d => exact ⟨fun hnot => absurd hdone hnot, fun _ => hsent ▸ B32D.finish_length_le _ (h.1 hst)⟩
  | b16e =>
    have hout : (s.applyFinish .b16e).b16e.port.out = s.b16e.port.obuf := List.append_nil _
    exact ⟨fun hnot => absurd hdone hnot, fun _ => (congrArg List.length hout).trans (h.1 hst)⟩
  | b16d => exact ⟨fun hnot => absurd hdone hnot, fun _ => hsent ▸ B16D.finish_length_le (h.1 hst)⟩

end Registers

/-- An accepted event keeps the length law of its unit, and every other unit as it was. -/
theorem lengthsHold_keptByEvents : KeptByEvents State.LengthsHold where
  event {w e s} hr h := by
    rw [lengthsHold_iff] at h ⊢
    intro u hu
    by_cases huw : u = w
    · subst huw
      cases e with
      | reset => exact unitLengthsHold_of_cleared (applyReset_file u s) (by decide) rfl rfl
      | start cfg => exact unitLengthsHold_of_cleared (applyStart_file u cfg s) (by simp) rfl rfl
      | symbol x =>
        obtain ⟨hwas, hrun, -⟩ := refusalOf_symbol.1 hr
        exact applySymbol_unitLengthsHold x hrun (h u hwas)
      | finish =>
        obtain ⟨hwas, hrun⟩ := refusalOf_finish.1 hr
        exact applyFinish_unitLengthsHold hrun (h u hwas)
    · rw [unitLengthsHold_congr (apply_file_of_ne s w e huw)]
      exact h u (by rwa [apply_port_of_ne s w e huw] at hu)
  host _ _ _ h := h

/-- Settles O52: every accepted event keeps the length law of each unit, and a step is a sequence of accepted events. -/
theorem stepKeepsLengthsHold : Obligations.StepKeepsLengthsHold :=
  fun _ _ hs h => lengthsHold_keptByEvents.step h hs

end Sys2Proof.Machine
end

section
/-! SUPPORT. What a transaction leaves depends on the operation and its message alone (44_validation_and_laws.md R240), on the empty
message nothing (R237), and on a text for B32D and B16D but for the case of its letters (R232). -/

namespace Sys2Proof.Machine

open Sys2Proof

section Purity

variable {u : UnitId} {s t : State}

theorem applySymbols_file_congr (message : List Byte) (hp : s.params = t.params) (hf : s.file u = t.file u) :
    (message.foldl (fun s x => s.applySymbol u x) s).file u =
      (message.foldl (fun s x => s.applySymbol u x) t).file u := by
  induction message generalizing s t with
  | nil => exact hf
  | cons x rest ih => exact ih (by simpa using hp) (apply_file_congr s u (.symbol x) hp hf)

/-- `START` writes every register of the unit (10_state.md R50), so what the unit and the others held before is lost. -/
theorem afterTransaction_file_congr (cfg : Cfg) (message : List Byte) (hp : s.params = t.params)
    (hw : (s.port u).wasReset = (t.port u).wasReset) :
    (afterTransaction u cfg message s).file u = (afterTransaction u cfg message t).file u := by
  have hstart : (s.applyStart u cfg).file u = (t.applyStart u cfg).file u := by
    simp only [applyStart_file, Port.onStart, hw]
  exact apply_file_congr _ u .finish (by simpa using hp) (applySymbols_file_congr message (by simpa using hp) hstart)

/-- `END` right after `START` succeeds with nothing, on every unit (44_validation_and_laws.md R237). -/
theorem afterTransaction_nil (u : UnitId) (cfg : Cfg) (s : State) :
    ((afterTransaction u cfg [] s).port u).ok = true ∧ ((afterTransaction u cfg [] s).port u).out = []
      ∧ ((afterTransaction u cfg [] s).port u).st = .done := by
  cases u <;> exact ⟨rfl, rfl, rfl⟩

end Purity

/-- Settles O23: both transactions begin at the registers `START` leaves, which are the same. -/
theorem sameMessageSameResult : Obligations.SameMessageSameResult := by
  intro i s s' t t' hp h h'
  obtain ⟨hw, -, -, rfl⟩ := exec_inv h
  obtain ⟨hw', -, -, rfl⟩ := exec_inv h'
  exact afterTransaction_file_congr i.cfg i.message hp (hw.trans hw'.symm)

/-- Settles O47: the transaction of no symbols is accepted whatever `MAX_LEN` is. -/
theorem emptyMessageSucceeds : Obligations.EmptyMessageSucceeds := by
  intro i s hm hstart
  have hexec := exec_eq_next hstart.1 hstart.2 (by rw [hm]; exact admits_zero s.params)
  rw [hm] at hexec
  exact ⟨_, hexec, afterTransaction_nil i.unit i.cfg s⟩

section Case

/-! Everything B32D and B16D ask of a symbol is the same for both cases of a letter. -/

variable {x : Byte}

theorem isWs_upperAscii : isWs (upperAscii x) = isWs x := by
  revert x
  decide

theorem isPad_upperAscii : isPad (upperAscii x) = isPad x := by
  revert x
  decide

/-- `0` is no letter (43_base16.md R205). -/
theorem B16D.advance_upperAscii (u : B16D) : u.advance (upperAscii x) = u.advance x := by
  have hzero : (upperAscii x == 0x30) = (x == 0x30) := by
    revert x
    decide
  simp only [B16D.advance, hzero]

/-- The two letters that can follow the `0` of a leading `0x` or `0X` are the two cases of one (43_base16.md R205). -/
theorem B16D.endsPrefix_upperAscii (u : B16D) : u.endsPrefix (upperAscii x) = u.endsPrefix x := by
  have hletter : (upperAscii x == 0x78 || upperAscii x == 0x58) = (x == 0x78 || x == 0x58) := by
    revert x
    decide
  simp only [B16D.endsPrefix, hletter]

theorem B32D.symbol_upperAscii (odd : OddCount) (u : B32D) :
    B32D.symbol odd (upperAscii x) u = B32D.symbol odd x u := by
  simp only [B32D.symbol, isWs_upperAscii, isPad_upperAscii, d32_upperAscii]

theorem B16D.symbol_upperAscii (u : B16D) : B16D.symbol (upperAscii x) u = B16D.symbol x u := by
  simp only [B16D.symbol, B16D.advance_upperAscii, B16D.endsPrefix_upperAscii, isWs_upperAscii, d16_upperAscii]

/-- The unit does not see the case of a letter. -/
def IgnoresCase (u : UnitId) : Prop := ∀ (x : Byte) (s : State), s.applySymbol u (upperAscii x) = s.applySymbol u x

theorem ignoresCase_b32d : IgnoresCase .b32d := fun x s => by
  simp only [State.applySymbol, B32D.symbol_upperAscii]

theorem ignoresCase_b16d : IgnoresCase .b16d := fun x s => by
  simp only [State.applySymbol, B16D.symbol_upperAscii]

variable {u : UnitId}

theorem IgnoresCase.lower (hu : IgnoresCase u) (x : Byte) (s : State) :
    s.applySymbol u (lowerAscii x) = s.applySymbol u x := by
  rw [← hu, upperAscii_lowerAscii, hu]

/-- An operation completes in the same state on a text whose symbols its unit does not tell from the first one's. -/
theorem exec_map {op : List Byte → Instr} {v : BitVec 1} (hop : OperationOf op u v) {f : Byte → Byte}
    (hf : ∀ (x : Byte) (s : State), s.applySymbol u (f x) = s.applySymbol u x) {text : List Byte} {s t : State}
    (h : exec (op text) s = .next t) : exec (op (text.map f)) s = .next t := by
  obtain ⟨hw, hs, hfits, rfl⟩ := exec_inv h
  rw [hop.unit] at hw hs
  rw [hop.message] at hfits
  rw [exec_of_unit (hop.unit _) ⟨hw, hs⟩ (by rwa [hop.message, List.length_map])]
  simp only [hop.unit, hop.cfg, hop.message, afterTransaction, List.foldl_map, hf]

end Case

/-- Settles O42: an operation on the text in either case completes in the very same state. -/
theorem decodingIgnoresCase : Obligations.DecodingIgnoresCase := by
  intro op hop text s t h
  have ends {u : UnitId} {v : BitVec 1} (hu : IgnoresCase u) (hop : OperationOf op u v) :
      exec (op (text.map upperAscii)) s = .next t ∧ exec (op (text.map lowerAscii)) s = .next t :=
    ⟨exec_map hop hu h, exec_map hop hu.lower h⟩
  have hsame : exec (op (text.map upperAscii)) s = .next t ∧ exec (op (text.map lowerAscii)) s = .next t := by
    rcases hop with rfl | rfl | rfl
    · exact ends ignoresCase_b32d (b32d_operationOf (.inl ⟨rfl, rfl⟩))
    · exact ends ignoresCase_b32d (b32d_operationOf (.inr ⟨rfl, rfl⟩))
    · exact ends ignoresCase_b16d ⟨fun _ => rfl, fun _ => rfl, fun _ => rfl, rfl⟩
  exact ⟨t, t, hsame.1, hsame.2, rfl, rfl, rfl, rfl⟩

section LeadingHexMark

variable {a b w : List Byte}

/-- Whether a text begins with `0x` is seen on its first two symbols. -/
theorem hasPrefix16_append (ha : 2 ≤ a.length) (r : List Byte) : hasPrefix16 (a ++ r) = hasPrefix16 a := by
  match a, ha with
  | _ :: _ :: _, _ => rfl

/-- Whitespace makes no leading `0x` or `0X`: none of their symbols is whitespace (43_base16.md R209). -/
theorem hasPrefix16_insert (hw : wsRun w = true) (hp : hasPrefix16 (a ++ b) = false) :
    hasPrefix16 (a ++ w ++ b) = false := by
  by_cases ha : 2 ≤ a.length
  · rwa [List.append_assoc, hasPrefix16_append ha, ← hasPrefix16_append ha b]
  cases w with
  | nil => simpa using hp
  | cons c w =>
    simp only [wsRun, List.all_cons, Bool.and_eq_true] at hw
    refine Bool.eq_false_iff.2 fun htrue => ?_
    obtain ⟨x, rest, hx, htext⟩ := exists_of_hasPrefix16 htrue
    match a with
    | [] =>
      obtain rfl : c = 0x30 := (List.cons.inj htext).1
      exact absurd hw.1 (by decide)
    | [_] =>
      obtain rfl : c = x := (List.cons.inj (List.cons.inj htext).2).1
      rcases hx with rfl | rfl <;> exact absurd hw.1 (by decide)
    | _ :: _ :: _ => exact absurd (Nat.le_add_left 2 _) ha

theorem filter_wsRun (hw : wsRun w = true) : w.filter (fun c => !isWs c) = [] := by
  simpa [wsRun] using hw

/-- Whitespace beyond a leading `0x` or `0X` is taken away (43_base16.md R208). -/
theorem hexSymbols_insert (hw : wsRun w = true) (h : 2 ≤ a.length ∨ hasPrefix16 (a ++ b) = false) :
    hexSymbols (a ++ w ++ b) = hexSymbols (a ++ b) := by
  have filtered (a : List Byte) : (a ++ w ++ b).filter (fun c => !isWs c) = (a ++ b).filter fun c => !isWs c := by
    simp only [List.filter_append, filter_wsRun hw, List.append_nil]
  cases hp : hasPrefix16 (a ++ b) with
  | false => rw [hexSymbols_of_no_prefix hp, hexSymbols_of_no_prefix (hasPrefix16_insert hw hp), filtered]
  | true =>
    have ha : 2 ≤ a.length := h.resolve_right (by simp [hp])
    have hp' : hasPrefix16 (a ++ w ++ b) = true := by
      rw [List.append_assoc, hasPrefix16_append ha, ← hasPrefix16_append ha b, hp]
    rw [hexSymbols_of_prefix hp, hexSymbols_of_prefix hp', List.append_assoc, List.drop_append_of_le_length ha,
      List.drop_append_of_le_length ha, ← List.append_assoc, filtered]

end LeadingHexMark

/-- Settles O45: both texts leave the same symbols to `dec16`. -/
theorem base16IgnoresWhitespace : Obligations.Base16IgnoresWhitespace := by
  intro a w b s hstart hfits hw h
  obtain ⟨t, ht, -, hok, hout⟩ := exec_b16dec (text := a ++ b) hstart (admits_mono (by simp) hfits)
  obtain ⟨t', ht', -, hok', hout'⟩ := exec_b16dec (text := a ++ w ++ b) hstart hfits
  rw [dec16_eq_joinDigits16, hexSymbols_insert hw h, ← dec16_eq_joinDigits16] at hok' hout'
  exact ⟨t, t', ht, ht', hok'.trans hok.symm, hout'.trans hout.symm⟩

end Sys2Proof.Machine
end

section
/-! SUPPORT. Whitespace in a text of B64D or B32D (44_validation_and_laws.md R235): between groups it moves the host's index on and
nothing else, which no unit reads; elsewhere it is a failure. -/

namespace Sys2Proof.Machine

open Sys2Proof

section Sent

variable (n : Nat) (x : Byte)

/-- The common registers with the host's index replaced. -/
def Port.withSent (p : Port) : Port := { p with sent := n }

theorem B64E.symbol_withSent (u : B64E) : B64E.symbol x { u with port := u.port.withSent n } =
    { B64E.symbol x u with port := (B64E.symbol x u).port.withSent n } := by
  unfold B64E.symbol
  dsimp only
  split_ifs <;> rfl

theorem B64D.symbol_withSent (u : B64D) : B64D.symbol x { u with port := u.port.withSent n } =
    { B64D.symbol x u with port := (B64D.symbol x u).port.withSent n } := by
  have hcfg : (u.port.withSent n).cfg = u.port.cfg := rfl
  unfold B64D.symbol
  dsimp only
  rw [hcfg]
  split_ifs <;> rfl

theorem B32E.symbol_withSent (u : B32E) : B32E.symbol x { u with port := u.port.withSent n } =
    { B32E.symbol x u with port := (B32E.symbol x u).port.withSent n } := by
  unfold B32E.symbol
  dsimp only
  split_ifs <;> rfl

theorem B32D.symbol_withSent (odd : OddCount) (u : B32D) : B32D.symbol odd x { u with port := u.port.withSent n } =
    { B32D.symbol odd x u with port := (B32D.symbol odd x u).port.withSent n } := by
  have hcfg : (u.port.withSent n).cfg = u.port.cfg := rfl
  unfold B32D.symbol
  dsimp only
  rw [hcfg]
  cases usable32 odd u.cnt.toNat <;> split_ifs <;> rfl

theorem B16D.symbol_withSent (u : B16D) : B16D.symbol x { u with port := u.port.withSent n } =
    { B16D.symbol x u with port := (B16D.symbol x u).port.withSent n } := by
  unfold B16D.symbol B16D.endsPrefix
  dsimp only
  split_ifs <;> rfl

theorem B64D.finish_withSent (u : B64D) : B64D.finish { u with port := u.port.withSent n } =
    { u.finish with port := u.finish.port.withSent n } := by
  have hcfg : (u.port.withSent n).cfg = u.port.cfg := rfl
  unfold B64D.finish
  dsimp only
  rw [hcfg]
  split_ifs <;> rfl

theorem B32D.finish_withSent (odd : OddCount) (u : B32D) : B32D.finish odd { u with port := u.port.withSent n } =
    { u.finish odd with port := (u.finish odd).port.withSent n } := by
  unfold B32D.finish
  dsimp only
  cases usable32 odd u.cnt.toNat <;> split_ifs <;> rfl

theorem B16D.finish_withSent (u : B16D) : B16D.finish { u with port := u.port.withSent n } =
    { u.finish with port := u.finish.port.withSent n } := by
  unfold B16D.finish
  dsimp only
  split_ifs <;> rfl

variable (u : UnitId) (s : State)

/-- The state with the host's index of one unit replaced. -/
def State.withSent : State := s.withPort u ((s.port u).withSent n)

theorem withSent_sent : s.withSent (s.port u).sent u = s := by
  cases u <;> rfl

/-- No unit reads the host's index (log entry 6): a `SYMBOL` only moves it on. -/
theorem applySymbol_withSent : (s.withSent n u).applySymbol u x = (s.applySymbol u x).withSent (n + 1) u := by
  cases u with
  | b64e => exact congrArg ({ s with b64e := · }) (B64E.symbol_withSent (n + 1) x { s.b64e with port := s.b64e.port.count })
  | b64d => exact congrArg ({ s with b64d := · }) (B64D.symbol_withSent (n + 1) x { s.b64d with port := s.b64d.port.count })
  | b32e => exact congrArg ({ s with b32e := · }) (B32E.symbol_withSent (n + 1) x { s.b32e with port := s.b32e.port.count })
  | b32d =>
    exact congrArg ({ s with b32d := · }) (B32D.symbol_withSent (n + 1) x _ { s.b32d with port := s.b32d.port.count })
  | b16e => rfl
  | b16d => exact congrArg ({ s with b16d := · }) (B16D.symbol_withSent (n + 1) x { s.b16d with port := s.b16d.port.count })

theorem applyFinish_withSent : (s.withSent n u).applyFinish u = (s.applyFinish u).withSent n u := by
  cases u with
  | b64e => rfl
  | b64d => exact congrArg ({ s with b64d := · }) (B64D.finish_withSent n s.b64d)
  | b32e => rfl
  | b32d => exact congrArg ({ s with b32d := · }) (B32D.finish_withSent n _ s.b32d)
  | b16e => rfl
  | b16d => exact congrArg ({ s with b16d := · }) (B16D.finish_withSent n s.b16d)

theorem applySymbols_withSent (text : List Byte) :
    (s.withSent n u).applySymbols u text = (s.applySymbols u text).withSent (n + text.length) u := by
  induction text generalizing n s with
  | nil => rfl
  | cons x rest ih =>
    have hrest := ih (n + 1) (s.applySymbol u x)
    rw [← applySymbol_withSent, Nat.add_assoc, Nat.add_comm 1] at hrest
    exact hrest

end Sent

section Between

variable {u : UnitId} {s : State} {cfg : Cfg} {a w b text : List Byte}

/-- Whitespace leaves the unit as it is, but for the host's index. -/
def State.SkipsWhitespace (u : UnitId) (s : State) : Prop :=
  ∀ (n : Nat) (x : Byte), isWs x = true → (s.withSent n u).applySymbol u x = s.withSent (n + 1) u

theorem State.SkipsWhitespace.run (h : s.SkipsWhitespace u) (hw : wsRun w = true) (n : Nat) :
    (s.withSent n u).applySymbols u w = s.withSent (n + w.length) u := by
  induction w generalizing n with
  | nil => rfl
  | cons x rest ih =>
    simp only [wsRun, List.all_cons, Bool.and_eq_true] at hw
    have hrest := ih hw.2 (n + 1)
    rw [← h n x hw.1, Nat.add_assoc, Nat.add_comm 1] at hrest
    exact hrest

theorem afterTransaction_append (u : UnitId) (cfg : Cfg) (a b : List Byte) (s : State) :
    afterTransaction u cfg (a ++ b) s = (((s.applyStart u cfg).applySymbols u a).applySymbols u b).applyFinish u :=
  congrArg (State.applyFinish u) (List.foldl_append ..)

/-- Whitespace that the unit skips changes nothing of a transaction but the host's index. -/
theorem afterTransaction_skip (h : ((s.applyStart u cfg).applySymbols u a).SkipsWhitespace u) (hw : wsRun w = true) :
    ∃ n, afterTransaction u cfg (a ++ (w ++ b)) s = (afterTransaction u cfg (a ++ b) s).withSent n u := by
  rw [afterTransaction_append, afterTransaction_append]
  generalize (s.applyStart u cfg).applySymbols u a = m at h ⊢
  have hrun := h.run hw (m.port u).sent
  rw [withSent_sent] at hrun
  have happend : m.applySymbols u (w ++ b) = (m.applySymbols u w).applySymbols u b := List.foldl_append ..
  exact ⟨_, by rw [happend, hrun, applySymbols_withSent, applyFinish_withSent]⟩

/-- B64D skips whitespace between groups (41_base64.md R152), and after a failure everything. -/
theorem skipsWhitespace_b64d (h : s.b64d.cnt = 0 ∧ s.b64d.padcnt = 0) : s.SkipsWhitespace .b64d := by
  intro n x hws
  have hsymbol (r : B64D) (hr : r.cnt = 0 ∧ r.padcnt = 0) : B64D.symbol x r = r := by
    unfold B64D.symbol
    split_ifs <;> rfl
  exact congrArg ({ s with b64d := · }) (hsymbol { s.b64d with port := s.b64d.port.withSent (n + 1) } h)

/-- The same for B32D (42_base32.md R182). -/
theorem skipsWhitespace_b32d (h : s.b32d.cnt = 0 ∧ s.b32d.padcnt = 0) : s.SkipsWhitespace .b32d := by
  intro n x hws
  have hsymbol (r : B32D) (hr : r.cnt = 0 ∧ r.padcnt = 0) : B32D.symbol s.params.b32OddCount x r = r := by
    unfold B32D.symbol
    split_ifs <;> rfl
  exact congrArg ({ s with b32d := · }) (hsymbol { s.b32d with port := s.b32d.port.withSent (n + 1) } h)

end Between

section Within

variable {x : Byte} {b out : List Byte}

/-- Within a group whitespace fails, and a failure stays (41_base64.md R152; 60_exceptions.md R255). -/
theorem B64D.not_succeeds_of_whitespace {u : B64D} (hws : isWs x = true) (h : ¬(u.cnt = 0 ∧ u.padcnt = 0)) :
    ¬ (B64D.symbols (x :: b) u).Succeeds out := by
  intro hs
  rcases hs.accepts with ⟨-, hcnt, hpadcnt⟩ | ⟨rfl, -⟩ | ⟨rfl, -⟩ | ⟨hx, -⟩ | ⟨hx, -⟩
  · exact h ⟨BitVec.eq_of_toNat_eq hcnt, BitVec.eq_of_toNat_eq hpadcnt⟩
  · nomatch hws
  · nomatch hws
  · simp [(not_ws_and_not_pad_of_d64_ne hx).1] at hws
  · simp [(not_ws_and_not_pad_of_d64_ne hx).1] at hws

/-- The same for B32D (42_base32.md R182). -/
theorem B32D.not_succeeds_of_whitespace {odd : OddCount} {u : B32D} (hws : isWs x = true)
    (h : ¬(u.cnt = 0 ∧ u.padcnt = 0)) : ¬ (B32D.symbols odd (x :: b) u).Succeeds odd out := by
  intro hs
  rcases hs.accepts with ⟨-, hcnt, hpadcnt⟩ | ⟨rfl, -⟩ | ⟨hx, -⟩ | ⟨hx, -⟩
  · exact h ⟨BitVec.eq_of_toNat_eq hcnt, BitVec.eq_of_toNat_eq hpadcnt⟩
  · nomatch hws
  · simp [(not_ws_and_not_pad_of_d32_ne hx).1] at hws
  · simp [(not_ws_and_not_pad_of_d32_ne hx).1] at hws

variable {s : State} {cfg : Cfg} {a w : List Byte} (hw : wsRun w = true) (hne : w ≠ [])
include hw hne

theorem afterTransaction_b64d_whitespace {m : B64D} (hm : m = ((s.applyStart .b64d cfg).applySymbols .b64d a).b64d)
    (h : ¬(m.cnt = 0 ∧ m.padcnt = 0)) : (afterTransaction .b64d cfg (a ++ (w ++ b)) s).b64d.port.ok = false := by
  obtain ⟨x, rest, rfl⟩ := List.exists_cons_of_ne_nil hne
  simp only [wsRun, List.all_cons, Bool.and_eq_true] at hw
  rw [State.applySymbols, applySymbols_b64d, ← B64D.symbols] at hm
  rw [afterTransaction_b64d, B64D.symbols_append, ← hm]
  exact Bool.eq_false_iff.2 fun hok => B64D.not_succeeds_of_whitespace hw.1 h ⟨hok, rfl⟩

theorem afterTransaction_b32d_whitespace {m : B32D} (hm : m = ((s.applyStart .b32d cfg).applySymbols .b32d a).b32d)
    (h : ¬(m.cnt = 0 ∧ m.padcnt = 0)) : (afterTransaction .b32d cfg (a ++ (w ++ b)) s).b32d.port.ok = false := by
  obtain ⟨x, rest, rfl⟩ := List.exists_cons_of_ne_nil hne
  simp only [wsRun, List.all_cons, Bool.and_eq_true] at hw
  rw [State.applySymbols, applySymbols_b32d, applyStart_params, ← B32D.symbols] at hm
  rw [afterTransaction_b32d, B32D.symbols_append, ← hm]
  exact Bool.eq_false_iff.2 fun hok => B32D.not_succeeds_of_whitespace hw.1 h ⟨hok, rfl⟩

end Within

/-- A decode operation on a text with whitespace inserted, where the unit skips it in a state `between` groups and fails on it in
any other. -/
theorem exec_insert_whitespace {op : List Byte → Instr} {u : UnitId} {v : BitVec 1} (hop : OperationOf op u v) {s : State}
    {a w b : List Byte} (hstart : s.canStart u) (hfits : s.params.admits (a ++ w ++ b).length = true) {between : Prop}
    (hw : wsRun w = true) (hskip : between → ((s.applyStart u (op []).cfg).applySymbols u a).SkipsWhitespace u)
    (hfail : ¬ between → ((afterTransaction u (op []).cfg (a ++ (w ++ b)) s).port u).ok = false) :
    ∃ t t', exec (op (a ++ b)) s = .next t ∧ exec (op (a ++ w ++ b)) s = .next t'
      ∧ (between → (t'.port u).ok = (t.port u).ok ∧ (t'.port u).out = (t.port u).out)
      ∧ (¬ between → (t'.port u).ok = false ∧ (t'.port u).out = []) := by
  have hexec (text : List Byte) (hlen : text.length ≤ (a ++ w ++ b).length) :
      exec (op text) s = .next (afterTransaction u (op []).cfg text s) := by
    rw [exec_of_unit (hop.unit _) hstart (by rw [hop.message]; exact admits_mono hlen hfits), hop.cfg, hop.message]
  refine ⟨_, _, hexec (a ++ b) (by simp), hexec (a ++ w ++ b) le_rfl, fun h => ?_, fun h => ?_⟩
  · obtain ⟨n, hn⟩ := afterTransaction_skip (b := b) (hskip h) hw
    rw [List.append_assoc, hn, State.withSent, withPort_port]
    exact ⟨rfl, rfl⟩
  · rw [List.append_assoc]
    exact ⟨hfail h, applyFinish_out_of_not_ok u _ (hfail h)⟩

/-- Settles O44: between groups both decoders skip whitespace, elsewhere it makes them fail. -/
theorem whitespaceOnlyBetweenGroups : Obligations.WhitespaceOnlyBetweenGroups := by
  constructor
  · intro op hop a w b s hstart hfits hw hne m
    obtain ⟨v, hop⟩ : ∃ v, OperationOf op .b64d v :=
      hop.elim (fun h => ⟨_, b64d_operationOf (.inl ⟨h, rfl⟩)⟩) fun h => ⟨_, b64d_operationOf (.inr ⟨h, rfl⟩)⟩
    exact exec_insert_whitespace hop hstart hfits hw skipsWhitespace_b64d (afterTransaction_b64d_whitespace hw hne rfl)
  · intro op hop a w b s hstart hfits hw hne m
    obtain ⟨v, hop⟩ : ∃ v, OperationOf op .b32d v :=
      hop.elim (fun h => ⟨_, b32d_operationOf (.inl ⟨h, rfl⟩)⟩) fun h => ⟨_, b32d_operationOf (.inr ⟨h, rfl⟩)⟩
    exact exec_insert_whitespace hop hstart hfits hw skipsWhitespace_b32d (afterTransaction_b32d_whitespace hw hne rfl)

end Sys2Proof.Machine
end

section
/-! SUPPORT. The digits of an encoder's output apart from its alphabet and padding: its shape (44_validation_and_laws.md R241), its
length (R230), and the order of the digits against the order of the bytes (R234). -/

namespace Sys2Proof.Machine

open Sys2Proof

section Digits

variable (v p : BitVec 1)

/-- The digits of a whole message: those of the full groups in order, then the ones of the short group (30_encoding.md R110). -/
def digits64 (bytes : List Byte) : List Digit64 :=
  match bytes with
  | [] => []
  | [b1] => (pack64 b1 0 0).take 2
  | [b1, b2] => (pack64 b1 b2 0).take 3
  | b1 :: b2 :: b3 :: rest => pack64 b1 b2 b3 ++ digits64 rest

/-- The same for Base32. -/
def digits32 (bytes : List Byte) : List Digit32 :=
  match bytes with
  | [] => []
  | [b1] => (pack32 b1 0 0 0 0).take 2
  | [b1, b2] => (pack32 b1 b2 0 0 0).take 4
  | [b1, b2, b3] => (pack32 b1 b2 b3 0 0).take 5
  | [b1, b2, b3, b4] => (pack32 b1 b2 b3 b4 0).take 7
  | b1 :: b2 :: b3 :: b4 :: b5 :: rest => pack32 b1 b2 b3 b4 b5 ++ digits32 rest

theorem digits64_length (bytes : List Byte) : (digits64 bytes).length = (4 * bytes.length + 2) / 3 := by
  induction bytes using digits64.induct with
  | case4 b1 b2 b3 rest ih =>
    simp only [digits64, List.length_append, pack64_length, ih, List.length_cons]
    omega
  | _ => simp [digits64, pack64_length]

theorem digits32_length (bytes : List Byte) : (digits32 bytes).length = (8 * bytes.length + 4) / 5 := by
  induction bytes using digits32.induct with
  | case6 b1 b2 b3 b4 b5 rest ih =>
    simp only [digits32, List.length_append, pack32_length, ih, List.length_cons]
    omega
  | _ => simp [digits32, pack32_length]

/-- `enc64` is its digits in the alphabet, then what completes the last group if padding is asked for (41_base64.md R140). -/
theorem enc64_eq_digits (bytes : List Byte) : enc64 v p bytes =
    (digits64 bytes).map (e64 v) ++ List.replicate (if p = 1 then (3 - bytes.length % 3) % 3 else 0) padChar := by
  induction bytes using digits64.induct with
  | case4 b1 b2 b3 rest ih => simp [enc64, digits64, ih, Nat.add_assoc]
  | _ => by_cases hp : p = 1#1 <;> simp [enc64, digits64, hp, List.replicate_succ]

/-- The same for `enc32` (42_base32.md R170). -/
theorem enc32_eq_digits (bytes : List Byte) : enc32 v p bytes =
    (digits32 bytes).map (e32 v)
      ++ List.replicate (if p = 1 then (8 - dataChars32 (bytes.length % 5)) % 8 else 0) padChar := by
  induction bytes using digits32.induct with
  | case6 b1 b2 b3 b4 b5 rest ih => simp [enc32, digits32, ih, Nat.add_assoc]
  | _ => by_cases hp : p = 1#1 <;> simp [enc32, encShort32, digits32, hp, dataChars32]

theorem enc16_entries (upper : BitVec 1) (bytes : List Byte) : ∀ c ∈ enc16 upper bytes, ∃ d, c = e16 upper d := by
  intro c hc
  simp only [enc16, List.mem_flatMap, List.mem_map] at hc
  obtain ⟨b, -, d, -, rfl⟩ := hc
  exact ⟨d, rfl⟩

end Digits

/-- Settles O41: each output is its digits in the alphabet and its padding. -/
theorem encoderOutputShape : Obligations.EncoderOutputShape := by
  refine ⟨fun i s t hu h => ?_, fun i s t hu h => ?_, fun i s t hu h => ?_⟩
  all_goals
    obtain ⟨hw, hs, hfits, -⟩ := exec_inv h
    rw [hu] at hw hs
  · obtain ⟨t', ht, hout⟩ := exec_b64e_out hu ⟨hw, hs⟩ hfits rfl rfl
    obtain rfl : t' = t := by simpa [ht] using h
    exact ⟨_, _, hout.trans (enc64_eq_digits ..), by simp, rfl⟩
  · obtain ⟨t', ht, hout⟩ := exec_b32e_out hu ⟨hw, hs⟩ hfits rfl rfl
    obtain rfl : t' = t := by simpa [ht] using h
    exact ⟨_, _, hout.trans (enc32_eq_digits ..), by simp, rfl⟩
  · obtain ⟨t', ht, -, -, hout⟩ := exec_b16e_done hu ⟨hw, hs⟩ hfits rfl
    obtain rfl : t' = t := by simpa [ht] using h
    exact hout ▸ enc16_entries _ _

section Numerals

variable {w : Nat}

/-- The number that a sequence of digits of `w` bits writes, most significant digit first. -/
def numeral : List (BitVec w) → Nat
  | [] => 0
  | d :: ds => d.toNat * 2 ^ (w * ds.length) + numeral ds

theorem numeral_lt (ds : List (BitVec w)) : numeral ds < 2 ^ (w * ds.length) := by
  induction ds with
  | nil => simp [numeral]
  | cons d ds ih =>
    have hd : d.toNat + 1 ≤ 2 ^ w := d.isLt
    calc numeral (d :: ds) < (d.toNat + 1) * 2 ^ (w * ds.length) := by rw [numeral, Nat.add_mul]; omega
      _ ≤ 2 ^ w * 2 ^ (w * ds.length) := Nat.mul_le_mul_right _ hd
      _ = 2 ^ (w * (d :: ds).length) := by rw [← Nat.pow_add, List.length_cons, Nat.mul_succ, Nat.add_comm]

theorem numeral_append (ds es : List (BitVec w)) :
    numeral (ds ++ es) = numeral ds * 2 ^ (w * es.length) + numeral es := by
  induction ds with
  | nil => simp [numeral]
  | cons d ds ih =>
    rw [List.cons_append, numeral, numeral, ih, List.length_append, Nat.mul_add, Nat.pow_add, Nat.add_mul, Nat.mul_assoc,
      Nat.add_assoc]

/-- Of two sequences of equal length the one that comes first writes the smaller number. -/
theorem lt_iff_numeral_lt {ds es : List (BitVec w)} (hlen : ds.length = es.length) : ds < es ↔ numeral ds < numeral es := by
  induction ds generalizing es with
  | nil =>
    obtain rfl : es = [] := List.eq_nil_of_length_eq_zero hlen.symm
    simp
  | cons d ds ih =>
    obtain ⟨e, es, rfl⟩ := List.exists_cons_of_length_eq_add_one hlen.symm
    have hlen : ds.length = es.length := by simpa using hlen
    have hds := numeral_lt ds
    have hes := numeral_lt es
    rw [List.cons_lt_cons_iff, ih hlen, numeral, numeral, hlen, BitVec.lt_def, ← BitVec.toNat_inj]
    rw [hlen] at hds
    generalize 2 ^ (w * es.length) = base at hds hes
    rcases Nat.lt_trichotomy d.toNat e.toNat with h | h | h
    · have hmul : (d.toNat + 1) * base ≤ e.toNat * base := Nat.mul_le_mul_right base h
      rw [Nat.add_mul] at hmul
      omega
    · rw [h]
      omega
    · have hmul : (e.toNat + 1) * base ≤ d.toNat * base := Nat.mul_le_mul_right base h
      rw [Nat.add_mul] at hmul
      omega

end Numerals

section Order

/-- The digit that two neighbouring bytes share (30_encoding.md R102), as a number. -/
theorem toNat_slices {p q a b k : Nat} (x : BitVec p) (y : BitVec q) :
    (x.extractLsb' 0 a ++ y.extractLsb' k b).toNat = 2 ^ b * (x.toNat % 2 ^ a) + y.toNat / 2 ^ k % 2 ^ b := by
  rw [BitVec.toNat_append, ← Nat.shiftLeft_add_eq_or_of_lt (BitVec.isLt _), Nat.shiftLeft_eq, Nat.mul_comm,
    BitVec.extractLsb'_toNat, BitVec.extractLsb'_toNat, Nat.shiftRight_zero, Nat.shiftRight_eq_div_pow]

/-- The digits of a group, or of its first bytes and the top bits of the next one, write the number that the bytes write
(30_encoding.md R102). -/
theorem numeral_pack32 (b1 b2 b3 b4 b5 : Byte) :
    numeral (pack32 b1 b2 b3 b4 b5) = numeral [b1, b2, b3, b4, b5]
    ∧ numeral ((pack32 b1 b2 b3 b4 b5).take 7) = numeral [b1, b2, b3, b4] * 2 ^ 3 + b5.toNat / 2 ^ 5
    ∧ numeral ((pack32 b1 b2 b3 b4 b5).take 5) = numeral [b1, b2, b3] * 2 ^ 1 + b4.toNat / 2 ^ 7
    ∧ numeral ((pack32 b1 b2 b3 b4 b5).take 4) = numeral [b1, b2] * 2 ^ 4 + b3.toNat / 2 ^ 4
    ∧ numeral ((pack32 b1 b2 b3 b4 b5).take 2) = numeral [b1] * 2 ^ 2 + b2.toNat / 2 ^ 6 := by
  have h1 := toNat_slices (a := 3) (k := 6) (b := 2) b1 b2
  have h2 := toNat_slices (a := 1) (k := 4) (b := 4) b2 b3
  have h3 := toNat_slices (a := 4) (k := 7) (b := 1) b3 b4
  have h4 := toNat_slices (a := 2) (k := 5) (b := 3) b4 b5
  simp only [Nat.reduceAdd] at h1 h2 h3 h4
  rw [pack32_eq_slices]
  simp [numeral, h1, h2, h3, h4, Nat.shiftRight_eq_div_pow]
  omega

/-- The digits of a message write the number that its bytes write, with the fill bits of the last digit behind it. -/
theorem numeral_digits32 (bytes : List Byte) :
    numeral (digits32 bytes) = numeral bytes * 2 ^ (5 * (digits32 bytes).length - 8 * bytes.length) := by
  induction bytes using digits32.induct with
  | case1 => rfl
  | case2 b1 =>
    obtain ⟨-, -, -, -, h⟩ := numeral_pack32 b1 0 0 0 0
    simpa [digits32, pack32_length] using h
  | case3 b1 b2 =>
    obtain ⟨-, -, -, h, -⟩ := numeral_pack32 b1 b2 0 0 0
    simpa [digits32, pack32_length] using h
  | case4 b1 b2 b3 =>
    obtain ⟨-, -, h, -, -⟩ := numeral_pack32 b1 b2 b3 0 0
    simpa [digits32, pack32_length] using h
  | case5 b1 b2 b3 b4 =>
    obtain ⟨-, h, -, -, -⟩ := numeral_pack32 b1 b2 b3 b4 0
    simpa [digits32, pack32_length] using h
  | case6 b1 b2 b3 b4 b5 rest ih =>
    have hgroup := (numeral_pack32 b1 b2 b3 b4 b5).1
    have hlen := digits32_length rest
    have hbytes : numeral (b1 :: b2 :: b3 :: b4 :: b5 :: rest) =
        numeral [b1, b2, b3, b4, b5] * 2 ^ (8 * rest.length) + numeral rest :=
      numeral_append [b1, b2, b3, b4, b5] rest
    have hfill : 5 * (digits32 (b1 :: b2 :: b3 :: b4 :: b5 :: rest)).length
        - 8 * (b1 :: b2 :: b3 :: b4 :: b5 :: rest).length = 5 * (digits32 rest).length - 8 * rest.length := by
      simp only [digits32, List.length_append, pack32_length, List.length_cons]
      omega
    have hpow : 5 * (digits32 rest).length = 8 * rest.length + (5 * (digits32 rest).length - 8 * rest.length) := by omega
    rw [hfill, hbytes, digits32, numeral_append, hgroup, ih, Nat.add_mul, Nat.mul_assoc, ← Nat.pow_add, ← hpow]

/-- The characters of the Extended-Hex alphabet stand in the order of their codes (20_memory.md R66). -/
theorem e32_hex_lt : ∀ i j : Digit32, i < j → e32 1 i < e32 1 j := by decide

/-- The digits of messages of equal length stand in the order of the messages. -/
theorem digits32_lt {x y : List Byte} (hlen : x.length = y.length) (h : x < y) : digits32 x < digits32 y := by
  have hdigits : (digits32 x).length = (digits32 y).length := by rw [digits32_length, digits32_length, hlen]
  rw [lt_iff_numeral_lt hlen] at h
  rw [lt_iff_numeral_lt hdigits, numeral_digits32, numeral_digits32, hdigits, hlen]
  exact Nat.mul_lt_mul_of_pos_right h (by positivity)

theorem enc32_nopad (v : BitVec 1) (bytes : List Byte) : enc32 v 0 bytes = (digits32 bytes).map (e32 v) := by
  simp [enc32_eq_digits]

end Order

/-- Settles O43: the alphabet keeps the order of the digits, and the digits that of the bytes. -/
theorem extendedHexKeepsOrder : Obligations.ExtendedHexKeepsOrder := by
  intro x y s hlen hlt hstart hfits
  have encodes (m : List Byte) (hm : m.length = x.length) :
      ∃ t, exec (.b32encHexNopad m) s = .next t ∧ t.b32e.port.out = (digits32 m).map (e32 1) := by
    rw [← enc32_nopad]
    exact exec_b32e_out (i := .b32encHexNopad m) rfl hstart (hm ▸ hfits) rfl (by decide : flagOf 0b01 = 0)
  obtain ⟨tx, htx, hx⟩ := encodes x rfl
  obtain ⟨ty, hty, hy⟩ := encodes y hlen.symm
  refine ⟨tx, ty, htx, hty, ?_⟩
  rw [hx, hy]
  exact List.map_lt e32_hex_lt (digits32_lt hlen hlt)

end Sys2Proof.Machine
end

section
/-! SUPPORT. Encode and then decode (44_validation_and_laws.md R231, R233): the rules decode what an encoder puts out, and the two
operations run one after the other on two units. -/

namespace Sys2Proof.Machine

open Sys2Proof

/-- An operation leaves every other unit ready to start, and the parameters as they were (10_state.md R21). -/
theorem exec_canStart_of_ne {i : Instr} {u : UnitId} {s t : State} (h : exec i s = .next t) (hne : u ≠ i.unit)
    (hstart : s.canStart u) : t.canStart u ∧ t.params = s.params := by
  obtain ⟨hfile, hparams, -⟩ := operationTouchesOnlyItsUnit i s t h
  exact ⟨by rwa [State.canStart, port_congr t u (hfile u hne)], hparams⟩

section Base64

variable {v p : BitVec 1} {bytes text g : List Byte}

theorem d64_e64_ne (v : BitVec 1) (i : Digit64) : d64 v (e64 v i) ≠ sentinel := by
  rw [d64_e64]
  revert i
  decide

theorem dataRun64_map (v : BitVec 1) (ds : List Digit64) : dataRun64 v (ds.map (e64 v)) = true := by
  simp [dataRun64, d64_e64_ne]

theorem cells64_map (v : BitVec 1) (ds : List Digit64) :
    cells64 v (ds.map (e64 v)) = #v[ds.getD 0 0, ds.getD 1 0, ds.getD 2 0, ds.getD 3 0] := by
  simp [cells64, Function.comp_def, d64_e64]

/-- The first `k` characters of an encoded group give back its first `k - 1` bytes (30_encoding.md R105). -/
theorem groupBytes64_pack64 (v : BitVec 1) (b1 b2 b3 : Byte) {k : Nat} (hk : k ∈ [2, 3, 4]) :
    groupBytes64 v (((pack64 b1 b2 b3).take k).map (e64 v)) = [b1, b2, b3].take (k - 1) := by
  obtain ⟨v1, v2, v3, v4, hpack⟩ : ∃ v1 v2 v3 v4, pack64 b1 b2 b3 = [v1, v2, v3, v4] := ⟨_, _, _, _, rfl⟩
  rw [groupBytes64_data (dataRun64_map v _), cells64_map, hpack, ← unpack64_pack64 hpack]
  simp only [List.mem_cons, List.not_mem_nil, or_false] at hk
  rcases hk with rfl | rfl | rfl <;> rfl

/-- A short group of an encoder's output, padded or, in the URL variant, unpadded, is one of the rule's (41_base64.md R154). -/
theorem Decoding64.short (hlen : g.length = 2 ∨ g.length = 3) (hg : dataRun64 v g = true) (hp : p = 1 ∨ v = 1) :
    Decoding64 v (g ++ (if p = 1 then List.replicate (4 - g.length) padChar else [])) (groupBytes64 v g) := by
  split_ifs with hpad
  · simpa using Decoding64.padded hlen hg (w := []) rfl
  · simpa using Decoding64.unpadded (hp.resolve_left hpad) hlen hg

/-- The rule decodes what `enc64` gives, but for an unpadded short group in the standard variant. -/
theorem decoding64_enc64 (hp : p = 1 ∨ v = 1 ∨ bytes.length % 3 = 0) : Decoding64 v (enc64 v p bytes) bytes := by
  induction bytes using enc64.induct with
  | case1 => exact .nil
  | case2 b1 =>
    have h := Decoding64.short (p := p) (.inl rfl) (dataRun64_map v ((pack64 b1 0 0).take 2)) (by simpa using hp)
    rwa [groupBytes64_pack64 v b1 0 0 (by decide)] at h
  | case3 b1 b2 =>
    have h := Decoding64.short (p := p) (.inr rfl) (dataRun64_map v ((pack64 b1 b2 0).take 3)) (by simpa using hp)
    rwa [groupBytes64_pack64 v b1 b2 0 (by decide)] at h
  | case4 b1 b2 b3 rest ih =>
    have hgroup : groupBytes64 v ((pack64 b1 b2 b3).map (e64 v)) = [b1, b2, b3] :=
      groupBytes64_pack64 v b1 b2 b3 (k := 4) (by decide)
    have h := Decoding64.group (by simp [pack64_length]) (dataRun64_map v (pack64 b1 b2 b3))
      (ih (by simpa [Nat.add_assoc] using hp))
    rwa [hgroup] at h

/-- In the standard variant a text of data characters is decoded only where its groups are full (41_base64.md R154). -/
theorem Decoding64.length_of_data (h : Decoding64 0 text bytes) (hdata : dataRun64 0 text = true) :
    text.length % 4 = 0 := by
  induction h with
  | nil => rfl
  | whitespace hx _ _ =>
    simp only [dataRun64, List.all_cons, Bool.and_eq_true, bne_iff_ne] at hdata
    simp [(not_ws_and_not_pad_of_d64_ne hdata.1).1] at hx
  | group hlen hg _ ih =>
    simp only [dataRun64, List.all_append, Bool.and_eq_true] at hdata
    rw [List.length_append, hlen, Nat.add_mod_left]
    exact ih hdata.2
  | @padded g w hlen hg hw =>
    have hpad : padChar ∈ g ++ (List.replicate (4 - g.length) padChar ++ w) := by
      simp
      omega
    exact absurd (List.all_eq_true.1 hdata _ hpad) (by decide)
  | unpadded hv _ _ => nomatch hv

theorem enc64_nopad (v : BitVec 1) (bytes : List Byte) : enc64 v 0 bytes = (digits64 bytes).map (e64 v) := by
  simp [enc64_eq_digits]

/-- An unpadded short group in the standard variant is not decoded (44_validation_and_laws.md R231). -/
theorem not_decoding64_enc64_nopad {b : List Byte} (hshort : b.length % 3 ≠ 0) : ¬ Decoding64 0 (enc64 0 0 b) bytes := by
  rw [enc64_nopad]
  intro h
  have hlen := h.length_of_data (dataRun64_map 0 (digits64 b))
  rw [List.length_map, digits64_length] at hlen
  omega

theorem enc64_length_le (v p : BitVec 1) (bytes : List Byte) : (enc64 v p bytes).length ≤ 4 * ((bytes.length + 2) / 3) := by
  rw [enc64_eq_digits, List.length_append, List.length_map, digits64_length, List.length_replicate]
  split_ifs <;> omega

/-- A Base64 encode operation and then the decode operation of a variant on what it gave: `dec64` of `enc64`. -/
theorem exec_b64_encode_decode {i : Instr} {op : List Byte → Instr} (hu : i.unit = .b64e)
    (hcfg : variantOf i.cfg = v ∧ flagOf i.cfg = p) (hop : OperationOf op .b64d v) {s : State} (henc : s.canStart .b64e)
    (hdec : s.canStart .b64d) (hfits : s.params.admits (4 * ((i.message.length + 2) / 3)) = true) :
    ∃ t1 t2, exec i s = .next t1 ∧ exec (op t1.b64e.port.out) t1 = .next t2
      ∧ (∀ bytes, (t2.b64d.port.ok = true ∧ t2.b64d.port.out = bytes) ↔ Decoding64 v (enc64 v p i.message) bytes)
      ∧ (t2.b64d.port.ok = false → t2.b64d.port.out = []) := by
  obtain ⟨t1, ht1, hout⟩ := exec_b64e_out hu henc (admits_mono (by omega) hfits) hcfg.1 hcfg.2
  obtain ⟨hdec1, hparams⟩ := exec_canStart_of_ne ht1 (by rw [hu]; decide) hdec
  obtain ⟨t2, ht2, -, hok, hfail⟩ := exec_b64d_decodes (text := t1.b64e.port.out) hop hdec1
    (by rw [hparams, hout]; exact admits_mono (enc64_length_le v p _) hfits)
  simp only [hout, decodesTo64_iff] at hok
  exact ⟨t1, t2, ht1, ht2, hok, hfail⟩

end Base64

/-- Settles O38: the rule decodes three of the four outputs always, and the fourth where no group of it is short. -/
theorem base64RoundTrip : Obligations.Base64RoundTrip := by
  intro b s henc hdec hfits
  refine ⟨?_, ?_, ?_, ?_⟩
  · obtain ⟨t1, t2, ht1, ht2, hok, -⟩ := exec_b64_encode_decode (i := .b64encStdPad b) rfl
      (by decide : variantOf 0b10 = 0 ∧ flagOf 0b10 = 1) (b64d_operationOf (.inl ⟨rfl, rfl⟩)) henc hdec hfits
    exact ⟨t1, t2, ht1, ht2, (hok b).2 (decoding64_enc64 (.inl rfl))⟩
  · obtain ⟨t1, t2, ht1, ht2, hok, -⟩ := exec_b64_encode_decode (i := .b64encUrlPad b) rfl
      (by decide : variantOf 0b11 = 1 ∧ flagOf 0b11 = 1) (b64d_operationOf (.inr ⟨rfl, rfl⟩)) henc hdec hfits
    exact ⟨t1, t2, ht1, ht2, (hok b).2 (decoding64_enc64 (.inl rfl))⟩
  · obtain ⟨t1, t2, ht1, ht2, hok, -⟩ := exec_b64_encode_decode (i := .b64encUrlNopad b) rfl
      (by decide : variantOf 0b01 = 1 ∧ flagOf 0b01 = 0) (b64d_operationOf (.inr ⟨rfl, rfl⟩)) henc hdec hfits
    exact ⟨t1, t2, ht1, ht2, (hok b).2 (decoding64_enc64 (.inr (.inl rfl)))⟩
  · obtain ⟨t1, t2, ht1, ht2, hok, hfail⟩ := exec_b64_encode_decode (i := .b64encStdNopad b) rfl
      (by decide : variantOf 0b00 = 0 ∧ flagOf 0b00 = 0) (b64d_operationOf (.inl ⟨rfl, rfl⟩)) henc hdec hfits
    refine ⟨t1, t2, ht1, ht2, fun hfull => (hok b).2 (decoding64_enc64 (.inr (.inr hfull))), fun hshort => ?_⟩
    have hnot : t2.b64d.port.ok = false :=
      Bool.eq_false_iff.2 fun htrue => not_decoding64_enc64_nopad hshort ((hok _).1 ⟨htrue, rfl⟩)
    exact ⟨hnot, hfail hnot⟩

section Base32

variable {odd : OddCount} {v p : BitVec 1} {bytes g : List Byte}

theorem d32_e32_ne (v : BitVec 1) (i : Digit32) : d32 v (e32 v i) ≠ sentinel := by
  rw [d32_e32]
  revert i
  decide

theorem dataRun32_map (v : BitVec 1) (ds : List Digit32) : dataRun32 v (ds.map (e32 v)) = true := by
  simp [dataRun32, d32_e32_ne]

theorem cells32_map (v : BitVec 1) (ds : List Digit32) : cells32 v (ds.map (e32 v)) =
    #v[ds.getD 0 0, ds.getD 1 0, ds.getD 2 0, ds.getD 3 0, ds.getD 4 0, ds.getD 5 0, ds.getD 6 0, ds.getD 7 0] := by
  simp [cells32, Function.comp_def, d32_e32]

/-- The first `k` characters of an encoded group give back the bytes they hold (30_encoding.md R109), for either value of
`B32_ODD_COUNT`. -/
theorem groupBytes32_pack32 (odd : OddCount) (v : BitVec 1) (b1 b2 b3 b4 b5 : Byte) {k : Nat} (hk : k ∈ [2, 4, 5, 7, 8]) :
    groupBytes32 odd v (((pack32 b1 b2 b3 b4 b5).take k).map (e32 v)) = [b1, b2, b3, b4, b5].take (5 * k / 8) := by
  obtain ⟨c1, c2, c3, c4, c5, c6, c7, c8, hpack⟩ :
      ∃ c1 c2 c3 c4 c5 c6 c7 c8, pack32 b1 b2 b3 b4 b5 = [c1, c2, c3, c4, c5, c6, c7, c8] :=
    ⟨_, _, _, _, _, _, _, _, rfl⟩
  have husable : usable32 odd (((pack32 b1 b2 b3 b4 b5).take k).map (e32 v)).length = some k := by
    simp only [List.mem_cons, List.not_mem_nil, or_false] at hk
    rcases hk with rfl | rfl | rfl | rfl | rfl <;> rfl
  rw [groupBytes32_data (dataRun32_map v _) husable, cells32_map, hpack, ← unpack32_pack32 hpack]
  simp only [List.mem_cons, List.not_mem_nil, or_false] at hk
  rcases hk with rfl | rfl | rfl | rfl | rfl <;> rfl

/-- A short group of an encoder's output, padded or not, is one of the rule's (42_base32.md R184). -/
theorem Decoding32.short (hlen : g.length ∈ [2, 4, 5, 7]) (hg : dataRun32 v g = true) :
    Decoding32 odd v (g ++ (if p = 1 then List.replicate (8 - g.length) padChar else [])) (groupBytes32 odd v g) := by
  have hsize : g.length ≤ 7 ∧ (usable32 odd g.length).isSome = true := by
    simp only [List.mem_cons, List.not_mem_nil, or_false] at hlen
    rcases hlen with h | h | h | h <;> rw [h] <;> exact ⟨by decide, rfl⟩
  obtain ⟨hle, husable⟩ := hsize
  split_ifs
  · simpa using Decoding32.padded hle husable hg (w := []) rfl
  · simpa using Decoding32.unpadded hle husable hg

theorem decoding32_encShort32 (b1 b2 b3 b4 : Byte) {r : Nat} (hr : r ∈ [1, 2, 3, 4]) :
    Decoding32 odd v (encShort32 v p b1 b2 b3 b4 r) ([b1, b2, b3, b4].take r) := by
  have hsize : dataChars32 r ∈ [2, 4, 5, 7] ∧
      [b1, b2, b3, b4].take r = [b1, b2, b3, b4, 0].take (5 * dataChars32 r / 8) := by
    simp only [List.mem_cons, List.not_mem_nil, or_false] at hr
    rcases hr with rfl | rfl | rfl | rfl <;> exact ⟨by decide, rfl⟩
  obtain ⟨hk, htake⟩ := hsize
  have hk' : dataChars32 r ∈ [2, 4, 5, 7, 8] := List.mem_append_left [8] hk
  have hlen : (((pack32 b1 b2 b3 b4 0).take (dataChars32 r)).map (e32 v)).length = dataChars32 r := by
    have hle : dataChars32 r ≤ 8 := (by decide : ∀ k ∈ [2, 4, 5, 7], k ≤ 8) _ hk
    simpa [pack32_length] using hle
  have h := Decoding32.short (odd := odd) (p := p) (by rwa [hlen])
    (dataRun32_map v ((pack32 b1 b2 b3 b4 0).take (dataChars32 r)))
  rwa [hlen, groupBytes32_pack32 odd v b1 b2 b3 b4 0 hk', ← htake] at h

/-- The rule decodes what `enc32` gives. -/
theorem decoding32_enc32 (odd : OddCount) (v p : BitVec 1) (bytes : List Byte) :
    Decoding32 odd v (enc32 v p bytes) bytes := by
  induction bytes using enc32.induct with
  | case1 => exact .nil
  | case2 b1 => exact decoding32_encShort32 b1 0 0 0 (r := 1) (by decide)
  | case3 b1 b2 => exact decoding32_encShort32 b1 b2 0 0 (r := 2) (by decide)
  | case4 b1 b2 b3 => exact decoding32_encShort32 b1 b2 b3 0 (r := 3) (by decide)
  | case5 b1 b2 b3 b4 => exact decoding32_encShort32 b1 b2 b3 b4 (r := 4) (by decide)
  | case6 b1 b2 b3 b4 b5 rest ih =>
    have hgroup : groupBytes32 odd v ((pack32 b1 b2 b3 b4 b5).map (e32 v)) = [b1, b2, b3, b4, b5] :=
      groupBytes32_pack32 odd v b1 b2 b3 b4 b5 (k := 8) (by decide)
    have h := Decoding32.group (by simp [pack32_length]) (dataRun32_map v (pack32 b1 b2 b3 b4 b5)) ih
    rwa [hgroup] at h

theorem enc32_length_le (v p : BitVec 1) (bytes : List Byte) : (enc32 v p bytes).length ≤ 8 * ((bytes.length + 4) / 5) := by
  rw [enc32_eq_digits, List.length_append, List.length_map, digits32_length, List.length_replicate,
    dataChars32_eq (by omega)]
  have hshort := Nat.mod_lt bytes.length (Nat.succ_pos 4)
  split_ifs
  · interval_cases hrest : bytes.length % 5 <;> omega
  · omega

/-- A Base32 encode operation and then the decode operation of its alphabet give the bytes back. -/
theorem exec_b32_encode_decode {i : Instr} {op : List Byte → Instr} (hu : i.unit = .b32e) (hcfg : variantOf i.cfg = v)
    (hop : OperationOf op .b32d v) {s : State} (henc : s.canStart .b32e) (hdec : s.canStart .b32d)
    (hfits : s.params.admits (8 * ((i.message.length + 4) / 5)) = true) :
    ∃ t1 t2, exec i s = .next t1 ∧ exec (op t1.b32e.port.out) t1 = .next t2
      ∧ t2.b32d.port.ok = true ∧ t2.b32d.port.out = i.message := by
  obtain ⟨t1, ht1, hout⟩ := exec_b32e_out hu henc (admits_mono (by omega) hfits) hcfg rfl
  obtain ⟨hdec1, hparams⟩ := exec_canStart_of_ne ht1 (by rw [hu]; decide) hdec
  obtain ⟨t2, ht2, -, hok, -⟩ := exec_b32d_decodes (text := t1.b32e.port.out) hop hdec1
    (by rw [hparams, hout]; exact admits_mono (enc32_length_le v _ _) hfits)
  exact ⟨t1, t2, ht1, ht2, (hok _).2 (decodesTo32_iff.2 (hout ▸ decoding32_enc32 _ v _ _))⟩

end Base32

/-- Settles O39: the rule decodes what `enc32` gives. -/
theorem base32RoundTrip : Obligations.Base32RoundTrip := by
  intro b s henc hdec hfits
  have hstd := b32d_operationOf (.inl ⟨rfl, rfl⟩)
  have hhex := b32d_operationOf (.inr ⟨rfl, rfl⟩)
  exact ⟨exec_b32_encode_decode (i := .b32encStdPad b) rfl (by decide : variantOf 0b10 = 0) hstd henc hdec hfits,
    exec_b32_encode_decode (i := .b32encStdNopad b) rfl (by decide : variantOf 0b00 = 0) hstd henc hdec hfits,
    exec_b32_encode_decode (i := .b32encHexPad b) rfl (by decide : variantOf 0b11 = 1) hhex henc hdec hfits,
    exec_b32_encode_decode (i := .b32encHexNopad b) rfl (by decide : variantOf 0b01 = 1) hhex henc hdec hfits⟩

section Base16

theorem d16_e16_ne (v : BitVec 1) (i : Nibble) : d16 (e16 v i) ≠ sentinel := by
  rw [d16_e16]
  revert i
  decide

/-- The second symbol of a leading `0x` or `0X` is no digit (43_base16.md R209). -/
theorem hasPrefix16_of_digit {x : Byte} (hx : d16 x ≠ sentinel) (a : Byte) (rest : List Byte) :
    hasPrefix16 (a :: x :: rest) = false := by
  have hletter : ¬ (x = 0x78 ∨ x = 0x58) := fun h => hx (d16_prefixLetter h)
  simpa [hasPrefix16] using fun _ => not_or.1 hletter

theorem enc16_cons (v : BitVec 1) (b : Byte) (rest : List Byte) :
    enc16 v (b :: rest) =
      e16 v (BitVec.ofNat 4 (b.toNat >>> 4)) :: e16 v (BitVec.ofNat 4 (b.toNat &&& 0x0F)) :: enc16 v rest := rfl

theorem enc16_length (v : BitVec 1) (bytes : List Byte) : (enc16 v bytes).length = 2 * bytes.length := by
  induction bytes with
  | nil => rfl
  | cons b rest ih =>
    simp only [enc16_cons, List.length_cons, ih]
    omega

/-- An encoder's text is digits throughout, so it has no leading `0x` or `0X` and no whitespace. -/
theorem hexSymbols_enc16 (v : BitVec 1) (bytes : List Byte) : hexSymbols (enc16 v bytes) = enc16 v bytes := by
  have hprefix : hasPrefix16 (enc16 v bytes) = false := by
    cases bytes with
    | nil => rfl
    | cons b rest => exact hasPrefix16_of_digit (d16_e16_ne v _) _ _
  rw [hexSymbols_of_no_prefix hprefix, List.filter_eq_self]
  intro c hc
  obtain ⟨i, rfl⟩ := enc16_entries v bytes c hc
  simp [not_ws_of_d16_ne (d16_e16_ne v i)]

/-- The two nibbles of a byte make it again (30_encoding.md R103, 43_base16.md R205). -/
theorem joinNibbles_nibbles :
    ∀ b : Byte, joinNibbles (BitVec.ofNat 4 (b.toNat >>> 4)) (BitVec.ofNat 4 (b.toNat &&& 0x0F)) = b := by decide

theorem joinDigits16_enc16 (v : BitVec 1) (bytes : List Byte) : joinDigits16 (enc16 v bytes) = some bytes := by
  induction bytes with
  | nil => rfl
  | cons b rest ih =>
    rw [enc16_cons, joinDigits16_pair (d16_e16_ne v _) (d16_e16_ne v _), ih, d16_e16, d16_e16,
      BitVec.setWidth_setWidth_of_le _ (by decide), BitVec.setWidth_setWidth_of_le _ (by decide), BitVec.setWidth_eq,
      BitVec.setWidth_eq, joinNibbles_nibbles]
    rfl

theorem dec16_enc16 (v : BitVec 1) (bytes : List Byte) : dec16 (enc16 v bytes) = some bytes := by
  rw [dec16_eq_joinDigits16, hexSymbols_enc16, joinDigits16_enc16]

/-- A Base16 encode operation and then `B16DEC` give the bytes back. -/
theorem exec_b16_encode_decode {i : Instr} (hu : i.unit = .b16e) {s : State} (henc : s.canStart .b16e)
    (hdec : s.canStart .b16d) (hfits : s.params.admits (2 * i.message.length) = true) :
    ∃ t1 t2, exec i s = .next t1 ∧ exec (.b16dec t1.b16e.port.out) t1 = .next t2
      ∧ t2.b16d.port.ok = true ∧ t2.b16d.port.out = i.message := by
  obtain ⟨t1, ht1, -, -, hout⟩ := exec_b16e_done hu henc (admits_mono (by omega) hfits) rfl
  obtain ⟨hdec1, hparams⟩ := exec_canStart_of_ne ht1 (by rw [hu]; decide) hdec
  obtain ⟨t2, ht2, -, hok, hbytes⟩ := exec_b16dec (text := t1.b16e.port.out) hdec1
    (by rw [hparams, hout, enc16_length]; exact hfits)
  rw [hout, dec16_enc16] at hok hbytes
  exact ⟨t1, t2, ht1, ht2, hok, hbytes⟩

end Base16

/-- Settles O40: `dec16` of `enc16` gives the bytes back. -/
theorem base16RoundTrip : Obligations.Base16RoundTrip := by
  intro b s henc hdec hfits
  exact ⟨exec_b16_encode_decode (i := .b16encLower b) rfl henc hdec hfits,
    exec_b16_encode_decode (i := .b16encUpper b) rfl henc hdec hfits⟩

end Sys2Proof.Machine
end

section
/-! SUPPORT. Decode failures: at which `SYMBOL` and which `END` each decoder fails (60_exceptions.md R252), and what a `SYMBOL` that
leaves `FAIL` set does to the registers (R255). Last, host reads of a unit that has had no `RESET` (R262; 70_reset_and_hazards.md R280). -/

namespace Sys2Proof.Machine

open Sys2Proof

section B64D

variable {u : B64D} {x : Byte}

/-- The places where B64D raises a failure at a `SYMBOL` (60_exceptions.md R252). -/
def B64D.Raises (x : Byte) (u : B64D) : Prop :=
  (isWs x = true ∧ (0 < u.cnt.toNat ∨ 0 < u.padcnt.toNat))
  ∨ (isWs x = false ∧ u.closed = true)
  ∨ (x = padChar ∧ u.cnt.toNat < 2)
  ∨ (isWs x = false ∧ x ≠ padChar ∧ d64 (variantOf u.port.cfg) x = sentinel)
  ∨ (d64 (variantOf u.port.cfg) x ≠ sentinel ∧ 0 < u.padcnt.toNat)

/-- A failure is raised nowhere but at the listed places: the arms of 41_base64.md R151 one by one. -/
theorem B64D.raises_of_fail (hfail : u.fail = false) (h : (B64D.symbol x u).fail = true) : u.Raises x := by
  unfold B64D.symbol at h
  split_ifs at h with hfailed hws hbetween hclosed hpad hcnt hfull hforeign hpadcnt hlast
  · simp [hfail] at hfailed
  · simp [hfail] at h
  · exact .inl ⟨hws, by bv_omega⟩
  · exact .inr (.inl ⟨by simpa using hws, hclosed⟩)
  · exact .inr (.inr (.inl ⟨beq_iff_eq.1 hpad, hcnt⟩))
  · simp [hfail] at h
  · simp [hfail] at h
  · exact .inr (.inr (.inr (.inl ⟨by simpa using hws, fun hx => hpad (beq_iff_eq.2 hx), hforeign⟩)))
  · exact .inr (.inr (.inr (.inr ⟨hforeign, by bv_omega⟩)))
  · simp [hfail] at h
  · simp [hfail] at h

/-- A failure sets `FAIL` and writes nothing else (60_exceptions.md R255). -/
theorem B64D.symbol_of_raises (hfail : u.fail = false) (h : u.Raises x) : B64D.symbol x u = { u with fail := true } := by
  have unless_closed (hws : isWs x = false) (hopen : u.closed = false → B64D.symbol x u = { u with fail := true }) :
      B64D.symbol x u = { u with fail := true } := by
    by_cases hclosed : u.closed = true
    · exact B64D.symbol_closed hfail hws hclosed
    · exact hopen (Bool.eq_false_of_not_eq_true hclosed)
  rcases h with ⟨hws, hwithin⟩ | ⟨hws, hclosed⟩ | ⟨rfl, hcnt⟩ | ⟨hws, hpad, hx⟩ | ⟨hx, hpadcnt⟩
  · exact B64D.symbol_whitespace_within hfail hws (by omega)
  · exact B64D.symbol_closed hfail hws hclosed
  · exact unless_closed rfl fun hclosed => B64D.symbol_earlyPad hfail hclosed hcnt
  · exact unless_closed hws fun hclosed => B64D.symbol_foreign hfail hclosed hws hpad hx
  · exact unless_closed (not_ws_and_not_pad_of_d64_ne hx).1 fun hclosed =>
      B64D.symbol_data_after_pad hfail hclosed hx hpadcnt

theorem B64D.symbol_fail_iff (hfail : u.fail = false) : (B64D.symbol x u).fail = true ↔ u.Raises x :=
  ⟨B64D.raises_of_fail hfail, fun h => by rw [B64D.symbol_of_raises hfail h]⟩

/-- The failing `SYMBOL` and every later one keep every register but `FAIL` (60_exceptions.md R255). -/
theorem B64D.symbol_of_fail_after (h : (B64D.symbol x u).fail = true) : B64D.symbol x u = { u with fail := true } := by
  cases hfail : u.fail with
  | true => rw [B64D.symbol_of_failed hfail, ← hfail]
  | false => exact B64D.symbol_of_raises hfail (B64D.raises_of_fail hfail h)

/-- Where `END` of B64D gives no result (60_exceptions.md R252; 41_base64.md R153). -/
theorem B64D.finish_not_ok_iff : u.finish.port.ok = false ↔
    u.fail = true ∨ 0 < u.padcnt.toNat
      ∨ (variantOf u.port.cfg = 0 ∧ 0 < u.cnt.toNat) ∨ (variantOf u.port.cfg = 1 ∧ u.cnt.toNat = 1) := by
  have hv : variantOf u.port.cfg = 0 ∨ variantOf u.port.cfg = 1 := by bv_omega
  cases hfail : u.fail with
  | true => simp [B64D.finish_of_failed hfail]
  | false =>
    obtain hpadcnt | hpadcnt := Nat.eq_zero_or_pos u.padcnt.toNat
    · obtain hcnt | hcnt | hcnt : u.cnt.toNat = 0 ∨ u.cnt.toNat = 1 ∨ u.cnt.toNat = 2 ∨ u.cnt.toNat = 3 := by omega
      · simp [B64D.finish_between hfail hpadcnt hcnt, hpadcnt, hcnt]
      · simpa [B64D.finish_one hfail hpadcnt hcnt, hpadcnt, hcnt] using hv
      · have hshort : 0 < u.cnt.toNat ∧ u.cnt.toNat ≠ 1 := by omega
        rcases hv with hv | hv
        · simp [B64D.finish_short_std hfail hpadcnt hcnt hv, hv, hshort]
        · simp [B64D.finish_short_url hfail hpadcnt hcnt hv, hv, hpadcnt, hshort]
    · simp [B64D.finish_within_padding hfail hpadcnt, hpadcnt]

end B64D

section B32D

variable {odd : OddCount} {u : B32D} {x : Byte} {n : Nat}

/-- With `fail`, a group of at most eight data symbols carries no bytes at the counts 0, 1, 3 and 6 (42_base32.md R181). -/
theorem usable32_fail_eq_none_iff (hn : n ≤ 8) : usable32 .fail n = none ↔ n < 2 ∨ n = 3 ∨ n = 6 := by
  revert n
  decide

/-- The places where B32D raises a failure at a `SYMBOL` (60_exceptions.md R252), for either value of `B32_ODD_COUNT`. -/
def B32D.Raises (odd : OddCount) (x : Byte) (u : B32D) : Prop :=
  (isWs x = true ∧ (0 < u.cnt.toNat ∨ 0 < u.padcnt.toNat))
  ∨ (isWs x = false ∧ u.closed = true)
  ∨ (x = padChar ∧ usable32 odd u.cnt.toNat = none)
  ∨ (isWs x = false ∧ x ≠ padChar ∧ d32 (variantOf u.port.cfg) x = sentinel)
  ∨ (d32 (variantOf u.port.cfg) x ≠ sentinel ∧ 0 < u.padcnt.toNat)

/-- With `B32_ODD_COUNT` at its decided value the third place is the two of R252's list. -/
theorem B32D.raises_decided_iff : u.Raises .fail x ↔
    (isWs x = true ∧ (0 < u.cnt.toNat ∨ 0 < u.padcnt.toNat))
    ∨ (isWs x = false ∧ u.closed = true)
    ∨ (x = padChar ∧ u.cnt.toNat < 2)
    ∨ (x = padChar ∧ (u.cnt.toNat = 3 ∨ u.cnt.toNat = 6))
    ∨ (isWs x = false ∧ x ≠ padChar ∧ d32 (variantOf u.port.cfg) x = sentinel)
    ∨ (d32 (variantOf u.port.cfg) x ≠ sentinel ∧ 0 < u.padcnt.toNat) := by
  rw [B32D.Raises, usable32_fail_eq_none_iff (by omega), and_or_left (a := x = padChar), or_assoc]

/-- A failure is raised nowhere but at the listed places: the arms of 42_base32.md R181 one by one. -/
theorem B32D.raises_of_fail (hfail : u.fail = false) (h : (B32D.symbol odd x u).fail = true) : u.Raises odd x := by
  have pad (hpad : isPad x = true) (hunusable : ∀ k, usable32 odd u.cnt.toNat ≠ some k) : u.Raises odd x :=
    .inr (.inr (.inl ⟨beq_iff_eq.1 hpad, Option.eq_none_iff_forall_ne_some.2 hunusable⟩))
  unfold B32D.symbol at h
  split_ifs at h with hfailed hws hbetween hclosed hpad hcnt hfull hforeign hpadcnt hlast
  · simp [hfail] at hfailed
  · simp [hfail] at h
  · exact .inl ⟨hws, by bv_omega⟩
  · exact .inr (.inl ⟨by simpa using hws, hclosed⟩)
  · exact pad hpad fun k husable => by have := two_le_of_usable32 husable; omega
  · exact pad hpad fun k husable => by simp [husable, hfail] at h
  · exact pad hpad fun k husable => by simp [husable, hfail] at h
  · exact .inr (.inr (.inr (.inl ⟨by simpa using hws, fun hx => hpad (beq_iff_eq.2 hx), hforeign⟩)))
  · exact .inr (.inr (.inr (.inr ⟨hforeign, by bv_omega⟩)))
  · simp [hfail] at h
  · simp [hfail] at h

/-- A failure sets `FAIL` and writes nothing else (60_exceptions.md R255). -/
theorem B32D.symbol_of_raises (hfail : u.fail = false) (h : u.Raises odd x) :
    B32D.symbol odd x u = { u with fail := true } := by
  have unless_closed (hws : isWs x = false)
      (hopen : u.closed = false → B32D.symbol odd x u = { u with fail := true }) :
      B32D.symbol odd x u = { u with fail := true } := by
    by_cases hclosed : u.closed = true
    · exact B32D.symbol_closed hfail hws hclosed
    · exact hopen (Bool.eq_false_of_not_eq_true hclosed)
  rcases h with ⟨hws, hwithin⟩ | ⟨hws, hclosed⟩ | ⟨rfl, husable⟩ | ⟨hws, hpad, hx⟩ | ⟨hx, hpadcnt⟩
  · exact B32D.symbol_whitespace_within hfail hws (by omega)
  · exact B32D.symbol_closed hfail hws hclosed
  · exact unless_closed rfl fun hclosed => B32D.symbol_unusablePad hfail hclosed husable
  · exact unless_closed hws fun hclosed => B32D.symbol_foreign hfail hclosed hws hpad hx
  · exact unless_closed (not_ws_and_not_pad_of_d32_ne hx).1 fun hclosed =>
      B32D.symbol_data_after_pad hfail hclosed hx hpadcnt

theorem B32D.symbol_fail_iff (hfail : u.fail = false) : (B32D.symbol odd x u).fail = true ↔ u.Raises odd x :=
  ⟨B32D.raises_of_fail hfail, fun h => by rw [B32D.symbol_of_raises hfail h]⟩

/-- The failing `SYMBOL` and every later one keep every register but `FAIL` (60_exceptions.md R255). -/
theorem B32D.symbol_of_fail_after (h : (B32D.symbol odd x u).fail = true) :
    B32D.symbol odd x u = { u with fail := true } := by
  cases hfail : u.fail with
  | true => rw [B32D.symbol_of_failed hfail, ← hfail]
  | false => exact B32D.symbol_of_raises hfail (B32D.raises_of_fail hfail h)

/-- Where `END` of B32D gives no result (60_exceptions.md R252; 42_base32.md R183). -/
theorem B32D.finish_not_ok_iff : (u.finish odd).port.ok = false ↔
    u.fail = true ∨ 0 < u.padcnt.toNat ∨ (u.cnt.toNat ≠ 0 ∧ usable32 odd u.cnt.toNat = none) := by
  cases hfail : u.fail with
  | true => simp [B32D.finish_of_failed hfail]
  | false =>
    obtain hpadcnt | hpadcnt := Nat.eq_zero_or_pos u.padcnt.toNat
    · by_cases hcnt : u.cnt.toNat = 0
      · simp [B32D.finish_between hfail hpadcnt hcnt, hpadcnt, hcnt]
      · cases husable : usable32 odd u.cnt.toNat with
        | none => simp [B32D.finish_unusable hfail hpadcnt hcnt husable, hcnt]
        | some k => simp [B32D.finish_usable hfail hpadcnt husable, hpadcnt]
    · simp [B32D.finish_within_padding hfail hpadcnt, hpadcnt]

end B32D

section B16D

variable {u : B16D} {x : Byte}

/-- The one place where B16D raises a failure at a `SYMBOL` (60_exceptions.md R252). -/
def B16D.Raises (x : Byte) (u : B16D) : Prop :=
  d16 x = sentinel ∧ isWs x = false ∧ ¬ u.endsPrefix x = true

theorem B16D.symbol_of_raises (hfail : u.fail = false) (h : u.Raises x) :
    B16D.symbol x u = { u.advance x with fail := true } :=
  have ⟨hx, hws, hprefix⟩ := h
  B16D.symbol_foreign hfail (Bool.eq_false_of_not_eq_true hprefix) hws hx

/-- A failure is raised nowhere but at the listed place: the arms of 43_base16.md R205 one by one. -/
theorem B16D.raises_of_fail (hfail : u.fail = false) (h : (B16D.symbol x u).fail = true) : u.Raises x := by
  unfold B16D.symbol at h
  split_ifs at h with hfailed hprefix hws hforeign hheld
  · simp [hfail] at hfailed
  · simp [hfail] at h
  · simp [hfail] at h
  · exact ⟨hforeign, by simpa using hws, hprefix⟩
  · simp [hfail] at h
  · simp [hfail] at h

theorem B16D.symbol_fail_iff (hfail : u.fail = false) : (B16D.symbol x u).fail = true ↔ u.Raises x :=
  ⟨B16D.raises_of_fail hfail, fun h => by rw [B16D.symbol_of_raises hfail h]⟩

theorem B16D.advance_first0 (x : Byte) (u : B16D) :
    (u.advance x).first0 = if u.pos.toNat = 0 then x == 0x30 else u.first0 := by
  split_ifs with hpos
  · exact B16D.advance_first0_at_zero hpos
  · exact B16D.advance_first0_later hpos

/-- The failing `SYMBOL` and every later one write `FAIL`, `POS` and `FIRST0` alone (60_exceptions.md R255). -/
theorem B16D.symbol_of_fail_after (h : (B16D.symbol x u).fail = true) :
    B16D.symbol x u = { u.advance x with fail := true } := by
  cases hfail : u.fail with
  | true => rw [B16D.symbol_of_failed hfail, ← hfail, ← B16D.advance_fail x u]
  | false => exact B16D.symbol_of_raises hfail (B16D.raises_of_fail hfail h)

/-- Where `END` of B16D gives no result (60_exceptions.md R252; 43_base16.md R206). -/
theorem B16D.finish_not_ok_iff : u.finish.port.ok = false ↔ u.fail = true ∨ u.haveHi = true := by
  rw [B16D.finish_ok, B16D.result]
  cases u.fail <;> cases u.haveHi <;> simp

end B16D

/-- A decoder that fails at `END` shows nothing (60_exceptions.md R255). -/
theorem Port.failAtEnd_shows_nothing (p : Port) :
    p.failAtEnd.ok = false ∧ p.failAtEnd.out = [] ∧ p.failAtEnd.outLen = 0 ∧ p.failAtEnd.st = .done :=
  ⟨rfl, rfl, rfl, rfl⟩

/-- An accepted `SYMBOL` leaves its unit in RUN (10_state.md R23). -/
theorem present_symbol_run {u : UnitId} {x : Byte} {s t : State} (h : present u (.symbol x) s = .next t) :
    (t.port u).st = .run := by
  obtain ⟨hr, rfl⟩ := present_eq_next.1 h
  exact (applySymbol_st u x s).trans (refusalOf_symbol.1 hr).2.1

/-- Settles O25: at each of the six events the failure condition of the unit's registers is the list. -/
theorem failureListIsComplete : Obligations.FailureListIsComplete := by
  refine ⟨fun x s t hfail h => ?_, fun s t h => ?_, fun x s t hodd hfail h => ?_, fun s t hodd h => ?_,
    fun x s t hfail h => ?_, fun s t h => ?_⟩
  all_goals obtain ⟨-, rfl⟩ := present_eq_next.1 h
  · exact B64D.symbol_fail_iff (u := { s.b64d with port := s.b64d.port.count }) hfail
  · exact B64D.finish_not_ok_iff
  · have ht : (s.applySymbol .b32d x).b32d = B32D.symbol .fail x { s.b32d with port := s.b32d.port.count } := by
      rw [← hodd]; rfl
    change (s.applySymbol .b32d x).b32d.fail = true ↔ _
    rw [ht]
    exact (B32D.symbol_fail_iff (u := { s.b32d with port := s.b32d.port.count }) hfail).trans B32D.raises_decided_iff
  · have ht : (s.applyFinish .b32d).b32d = s.b32d.finish .fail := by rw [← hodd]; rfl
    change (s.applyFinish .b32d).b32d.port.ok = false ↔ _
    rw [ht, B32D.finish_not_ok_iff, usable32_fail_eq_none_iff (by omega)]
    exact or_congr_right (or_congr_right (by omega))
  · have hlist := B16D.symbol_fail_iff (x := x) (u := { s.b16d with port := s.b16d.port.count }) hfail
    rw [B16D.Raises, B16D.endsPrefix_iff] at hlist
    exact hlist
  · exact B16D.finish_not_ok_iff

/-- Settles O26: the registers after a failing `SYMBOL` are those of `symbol_of_fail_after`, and `END` takes its failing arm. -/
theorem failureKeepsEverythingAndShowsNothing : Obligations.FailureKeepsEverythingAndShowsNothing := by
  refine ⟨fun x s t h hfail => ⟨?_, present_symbol_run h⟩, fun x s t h hfail => ⟨?_, present_symbol_run h⟩,
    fun x s t h hfail => ?_, fun s hrun hfail => ⟨_, present_finish hrun, ?_⟩,
    fun s hrun hfail => ⟨_, present_finish hrun, ?_⟩, fun s hrun hfail => ⟨_, present_finish hrun, ?_⟩⟩
  · obtain ⟨-, rfl⟩ := present_eq_next.1 h
    exact B64D.symbol_of_fail_after hfail
  · obtain ⟨-, rfl⟩ := present_eq_next.1 h
    exact B32D.symbol_of_fail_after hfail
  · have hrun := present_symbol_run h
    obtain ⟨-, rfl⟩ := present_eq_next.1 h
    have ht : (s.apply .b16d (.symbol x)).b16d = _ := B16D.symbol_of_fail_after hfail
    change (s.apply .b16d (.symbol x)).b16d.port.st = .run at hrun
    rw [ht] at hrun ⊢
    exact ⟨rfl, B16D.advance_pos_toNat x _, B16D.advance_first0 x _, hrun⟩
  · have hend : (s.applyFinish .b64d).b64d = _ := B64D.finish_of_failed hfail
    rw [hend]
    exact s.b64d.port.failAtEnd_shows_nothing
  · have hend : (s.applyFinish .b32d).b32d = _ := B32D.finish_of_failed hfail
    rw [hend]
    exact s.b32d.port.failAtEnd_shows_nothing
  · have hend : (s.applyFinish .b16d).b16d = _ := B16D.finish_failed (.inl hfail)
    rw [hend]
    exact s.b16d.port.failAtEnd_shows_nothing

/-- Settles O53: before the first `RESET` a read is `readUndefined`, and a read writes nothing but the host's fields. -/
theorem readBeforeResetGivesAnUndefinedValue : Obligations.ReadBeforeResetGivesAnUndefinedValue := by
  intro u s hnever gives
  have hread (r : ReadTarget) : readTarget u r s = readUndefined u r s := if_pos hnever
  refine ⟨⟨_, hread _⟩, ⟨_, hread _⟩, ⟨_, hread _⟩, ⟨_, hread _⟩, fun a => ⟨_, hread _⟩, fun r t h => ?_⟩
  obtain ⟨v, n, rfl⟩ := readTarget_inv h
  exact ⟨rfl, rfl, fun w => readTarget_file h⟩

end Sys2Proof.Machine
end

section
/-! SUPPORT. `RESET` and the protocol across units: the registers a `RESET` leaves, a unit before its first `RESET` (92_eei_decisions.md
D17), and what takes a unit out of RUN (10_state.md R23). -/

namespace Sys2Proof.Machine

open Sys2Proof

section Protocol

variable {u : UnitId} {s t : State}

/-- The reset state holds the registers each unit has after its own `RESET` (10_state.md R50; log entry 5). -/
theorem reset_file (u : UnitId) : State.reset.file u = zeroFile u Port.reset := by
  cases u <;> rfl

/-- A unit that accepts an event other than `RESET` has been reset (70_reset_and_hazards.md R280). -/
theorem wasReset_of_accepted {e : Event} (hr : refusalOf u e s = none) (he : e ≠ .reset) : (s.port u).wasReset = true := by
  cases e with
  | reset => exact absurd rfl he
  | start cfg => exact (refusalOf_start.1 hr).2.1
  | symbol x => exact (refusalOf_symbol.1 hr).1
  | finish => exact (refusalOf_finish.1 hr).1

/-- A `START` with a legal `cfg` before the first `RESET`: the ground of the refusal is that there was none. -/
theorem present_start_neverReset {cfg : Cfg} (hc : startReserved u cfg = none) (hnever : (s.port u).wasReset = false) :
    present u (.start cfg) s = .refused (.neverReset u) := by
  simp [present, refusalOf, hc, hnever]

/-- An accepted event takes a unit out of RUN only if it is `END` or `RESET` of that unit. -/
theorem event_leaves_run {w : UnitId} {e : Event} (hr : refusalOf w e s = none) (hrun : (s.port u).st = .run)
    (hleft : ((s.apply w e).port u).st ≠ .run) : u = w ∧ (e = .finish ∨ e = .reset) := by
  by_cases huw : u = w
  · subst huw
    refine ⟨rfl, ?_⟩
    cases e with
    | reset => exact .inr rfl
    | start cfg => exact absurd hrun (refusalOf_start.1 hr).2.2
    | symbol x => exact absurd ((applySymbol_st u x s).trans hrun) hleft
    | finish => exact .inl rfl
  · rw [apply_port_of_ne s w e huw] at hleft
    exact absurd hrun hleft

/-- An operation leaves every unit in RUN that was: its own unit was not (10_state.md R21, R23). -/
theorem exec_keeps_run {i : Instr} (h : exec i s = .next t) (hrun : (s.port u).st = .run) : (t.port u).st = .run := by
  obtain ⟨-, hstart, -, rfl⟩ := exec_inv h
  have hne : u ≠ i.unit := fun hu => hstart (hu ▸ hrun)
  obtain ⟨hfile, -⟩ := afterTransaction_frame i.unit i.cfg i.message s
  rw [port_congr _ u (hfile u hne), hrun]

/-- The same for an action of the host: an operation keeps RUN, and a read touches no unit (20_memory.md R83). -/
theorem act_leaves_run {a : HostAction} (h : act a s = .next t) (hrun : (s.port u).st = .run)
    (hleft : (t.port u).st ≠ .run) : a = .finish u ∨ a = .reset u := by
  rcases act_inv h with ⟨w, e, hr, rfl, hae⟩ | ⟨i, -, hi⟩ | ⟨w, r, v, n, -, rfl⟩
  · obtain ⟨rfl, rfl | rfl⟩ := event_leaves_run hr hrun hleft
    · exact .inl (by simpa using hae)
    · exact .inr (by simpa using hae)
  · exact absurd (exec_keeps_run hi hrun) hleft
  · exact absurd hrun (by cases u <;> exact hleft)

end Protocol

/-- Settles O3: an accepted event other than `RESET` would say that the unit was reset, an operation begins with `START`, and a
working register is readable in no state. -/
theorem beforeItsResetAUnitRefusesAll : Obligations.BeforeItsResetAUnitRefusesAll := by
  intro u s hnever
  refine ⟨fun e he => ?_, fun i hi => ?_, fun w => if_pos hnever⟩
  · rcases present_cases u e s with ⟨r, -, h⟩ | ⟨hr, -⟩
    · exact ⟨r, h⟩
    · exact absurd (wasReset_of_accepted hr he) (by simp [hnever])
  · subst hi
    rw [exec_eq_transact, transact, present_start_neverReset (startReserved_cfg i) hnever, andThen_refused]

/-- Settles O27: a step takes the first action of the script, and `act_leaves_run` says which actions these are. -/
theorem onlyEndOrResetLeavesRun : Obligations.OnlyEndOrResetLeavesRun := by
  intro u s t h hrun hleft
  cases hscript : s.script with
  | nil =>
    rw [step_nil hscript] at h
    injection h with h
    exact absurd (h ▸ hrun) hleft
  | cons a rest =>
    rw [step_cons hscript] at h
    have hact := act_leaves_run h ((congrArg Port.st (withScript_port s u rest)).trans hrun) hleft
    exact ⟨rest, hact.imp (congrArg (· :: rest)) (congrArg (· :: rest))⟩

/-- Settles O2: the registers after `RESET` are those of the reset state, and an event touches nothing but its unit. -/
theorem resetOfOneUnitTouchesNoOther : Obligations.ResetOfOneUnitTouchesNoOther := fun u s =>
  ⟨s.apply u .reset, present_eq_next.2 ⟨refusalOf_reset u s, rfl⟩, (applyReset_file u s).trans (reset_file u).symm,
    fun _ hw => apply_file_of_ne s u .reset hw, apply_params .., apply_script .., apply_lastRead .., apply_undefinedReads ..⟩

end Sys2Proof.Machine
end
